-- ==== Sys2Proof/Word.lean ====
section
/-! DEFINITION. The plain word types of the block. All values are unsigned and bit 0 is the least
significant bit (`00_scope.md` R7). -/

namespace Sys2Proof

/-- A byte of the serial bus or of the register map. -/
abbrev Byte := BitVec 8

/-- A channel index 0..3 (`10_state.md` R14). -/
abbrev Chan := BitVec 2

/-- One bit per channel, bit `k` for channel `k` (`30_encoding.md` R57). -/
abbrev ChanMask := BitVec 4

/-- A timer count or compare value (`10_state.md` R19). -/
abbrev Count := BitVec 16

/-- An infrared command word (`30_encoding.md` R58). -/
abbrev CommandWord := BitVec 16

end Sys2Proof
end

