-- ==== Sys2Proof/Machine/Operands.lean ====
section
/-! DEFINITION. Operand forms: the fields of the address byte, the register map's three functions,
the channel and the mask that a byte names (`30_encoding.md` R51, R52, R53, R57; `20_memory.md` R31,
R32), and access to a per-channel array. -/

namespace Sys2Proof.Machine

/-- Field `addr`, bits 7:1 of an address byte (`30_encoding.md` R51). -/
def addrField (b : Byte) : BitVec 7 := b.extractLsb' 1 7

/-- Field `dir`, bit 0 of an address byte: true is a read (`30_encoding.md` R51). -/
def dirField (b : Byte) : Bool := b.getLsbD 0

/-- The address byte with the two fields given (`30_encoding.md` R51). -/
def addressByte (addr : BitVec 7) (dir : Bool) : Byte := addr ++ BitVec.ofBool dir

/-- The ten register addresses (`20_memory.md` R31). -/
def whitelist : List Byte :=
  [0x00#8, 0x08#8, 0x10#8, 0x42#8, 0x43#8, 0x44#8, 0x50#8, 0x51#8, 0x52#8, 0x53#8]

/-- `Width(a)` in bytes (`20_memory.md` R32). -/
def width (a : Byte) : Nat := if a ∈ ([0x00#8, 0x08#8, 0x10#8] : List Byte) then 8 else 1

/-- `Readable(a)` (`20_memory.md` R32). -/
def readable (a : Byte) : Bool :=
  decide (a ∈ ([0x00#8, 0x08#8, 0x10#8, 0x42#8, 0x50#8, 0x51#8, 0x52#8, 0x53#8] : List Byte))

/-- `Writable(a)` (`20_memory.md` R32). -/
def writable (a : Byte) : Bool :=
  decide (a ∈ ([0x42#8, 0x43#8, 0x44#8, 0x50#8, 0x51#8, 0x52#8, 0x53#8] : List Byte))

/-- The channel mask of a byte written to 0x42, 0x43 or 0x44: `d[3:0]`; `d[7:4]` is ignored
(`30_encoding.md` R53, R57). -/
def maskField (d : Byte) : ChanMask := d.extractLsb' 0 4

/-- The data nibble of a PWM byte, `p[3:0]` (`30_encoding.md` R57). -/
def dataNibble (p : Byte) : BitVec 4 := p.extractLsb' 0 4

/-- Bit `k` of a channel mask. -/
def bitOf (m : ChanMask) (k : Chan) : Bool := m.getLsbD k.toNat

/-- Element `k` of a per-channel array. -/
def chanGet {α : Type} (v : Vector α 4) (k : Chan) : α := v[k.toNat]'(k.isLt)

/-- A per-channel array with element `k` replaced. -/
def chanSet {α : Type} (v : Vector α 4) (k : Chan) (x : α) : Vector α 4 := v.set k.toNat x k.isLt

end Sys2Proof.Machine
end

