-- ==== Sys2Proof/Config.lean ====
section
/-! DEFINITION. The configuration record of `00_scope.md` R6, its constraints, the record of the reset
state (OPEN parameters are uninterpreted constants), the record of the spec's worked examples, and the
free schedule of port levels. Log 2, log 3. -/

namespace Sys2Proof

/-- The order of two handlers on one clk edge (`60_exceptions.md` R168). -/
inductive SimulOrder where
  | irFirst
  | serialFirst
deriving DecidableEq, Repr, Inhabited

/-- The parameters of `00_scope.md` R6 (lengths in timer ticks, the carrier in hertz, the duty as a
fraction). -/
structure Params where
  deviceAddress : BitVec 7
  marker : BitVec 4
  versionStr : Vector Byte 8
  vendorStr : Vector Byte 8
  productStr : Vector Byte 8
  period : Vector Byte 4
  sentinel : Byte
  fCarrier : Nat
  tMark : Nat
  tGap0 : Nat
  tGap1 : Nat
  tGaps : Nat
  tFrame : Nat
  dutyNum : Nat
  dutyDen : Nat
  simulOrder : SimulOrder
deriving DecidableEq, Repr

namespace Params

/-- Every character of an identity string is in 0x01..0x7F (R6, D6). -/
abbrev AsciiValid (v : Vector Byte 8) : Prop := ∀ i : Fin 8, 1 ≤ v[i].toNat ∧ v[i].toNat ≤ 0x7F

/-- `1 <= PERIOD[k]`, pairwise distinct (R6, D7); the upper bound 255 is the element's width. -/
abbrev PeriodValid (p : Params) : Prop :=
  (∀ i : Fin 4, 1 ≤ p.period[i].toNat) ∧ ∀ i j : Fin 4, p.period[i] = p.period[j] → i = j

/-- The sentinel is not a register address (R6, D10). -/
abbrev SentinelValid (p : Params) : Prop := p.sentinel ∉ Machine.whitelist

/-- The timing constraints (R6) with the width bound of D33. -/
abbrev TimingValid (p : Params) : Prop :=
  1 ≤ p.tMark ∧ 1 ≤ p.tGap0 ∧ p.tGap0 < p.tGap1 ∧ 1 ≤ p.tGaps ∧
  2 * (p.tMark + p.tGaps) + 16 * (p.tMark + p.tGap1) < p.tFrame ∧ p.tFrame < 65536

/-- A carrier frequency above 0 and a duty strictly between 0 and 1 (R6). -/
abbrev CarrierValid (p : Params) : Prop := 0 < p.fCarrier ∧ 0 < p.dutyNum ∧ p.dutyNum < p.dutyDen

/-- All the constraints of `00_scope.md` R6. -/
abbrev Valid (p : Params) : Prop :=
  AsciiValid p.versionStr ∧ AsciiValid p.vendorStr ∧ AsciiValid p.productStr ∧
  p.PeriodValid ∧ p.SentinelValid ∧ p.TimingValid ∧ p.CarrierValid

/-- The example values of `95_test_vectors.md` (address 0x01, marker 0x4, its strings), the defaults of
R6 elsewhere; duty and order are illustrations of this model's tests. For tests only. -/
def testVectors : Params where
  deviceAddress := 0x01
  marker := 0x4
  versionStr := #v[0x56, 0x31, 0x2E, 0x30, 0x30, 0x20, 0x20, 0x20]
  vendorStr := #v[0x41, 0x42, 0x43, 0x44, 0x45, 0x46, 0x47, 0x48]
  productStr := #v[0x49, 0x52, 0x4C, 0x49, 0x4E, 0x4B, 0x20, 0x20]
  period := #v[8, 10, 12, 14]
  sentinel := 0xFF
  fCarrier := 38000
  tMark := 6
  tGap0 := 10
  tGap1 := 21
  tGaps := 39
  tFrame := 608
  dutyNum := 1
  dutyDen := 2
  simulOrder := .irFirst

end Params

/-- The input ports at one rising edge of `clk` (`10_state.md` R10). -/
structure Ports where
  rstN : Bool
  tick : Bool
  scl : Bool
  sdaIn : Bool
deriving DecidableEq, Repr, Inhabited

namespace Config

/-- DEVICE_ADDRESS: OPEN (R6, D4). Uninterpreted. -/
opaque deviceAddress : BitVec 7

/-- MARKER: OPEN (R6, D5). Uninterpreted. -/
opaque marker : BitVec 4

/-- The characters of VERSION_STR: OPEN (R6, D6); character code minus 1. Uninterpreted. -/
opaque versionChar : Fin 8 → Fin 127

/-- The characters of VENDOR_STR: OPEN (R6, D6); character code minus 1. Uninterpreted. -/
opaque vendorChar : Fin 8 → Fin 127

/-- The characters of PRODUCT_STR: OPEN (R6, D6); character code minus 1. Uninterpreted. -/
opaque productChar : Fin 8 → Fin 127

/-- CARRIER_DUTY: OPEN (R6, D18); the numerator minus 1. Uninterpreted. -/
opaque dutyHigh : Nat

/-- CARRIER_DUTY: OPEN (R6, D18); denominator minus numerator minus 1. Uninterpreted. -/
opaque dutyLow : Nat

/-- SIMUL_ORDER: OPEN (R6, D24). Uninterpreted. -/
opaque simulOrder : SimulOrder

/-- The port levels that the environment presents at clk edge `n` once the input queue is empty
(`60_exceptions.md` R172: the host chooses them). Uninterpreted: a free value (log 2). -/
opaque portsAt : Nat → Ports

/-- A string of eight characters from codes 1..127. -/
def asciiString (f : Fin 8 → Fin 127) : Vector Byte 8 :=
  Vector.ofFn fun i => BitVec.ofNat 8 ((f i).val + 1)

/-- The configuration of the reset state: OPEN parameters uninterpreted, the others at the spec's
defaults (`00_scope.md` R6; log 3). -/
def params : Params where
  deviceAddress := deviceAddress
  marker := marker
  versionStr := asciiString versionChar
  vendorStr := asciiString vendorChar
  productStr := asciiString productChar
  period := #v[8, 10, 12, 14]
  sentinel := 0xFF
  fCarrier := 38000
  tMark := 6
  tGap0 := 10
  tGap1 := 21
  tGaps := 39
  tFrame := 608
  dutyNum := dutyHigh + 1
  dutyDen := dutyHigh + dutyLow + 2
  simulOrder := simulOrder

end Config
end Sys2Proof
end

