-- ==== Sys2Proof/Machine/Frame.lean ====
section
/-! DEFINITION. The pure functions of the infrared side: the command word, the compare values of the
symbols, the trailing gap (`40_ir_frame_engine.md` R70, R71; `30_encoding.md` R58, R60). -/

namespace Sys2Proof.Machine

/-- The checksum nibble: 0xF exclusive-or the other three (`30_encoding.md` R58; `90_conflicts.md` C1). -/
def checksum (marker chan data : BitVec 4) : BitVec 4 := 0xF ^^^ marker ^^^ chan ^^^ data

/-- `Frame(c, p)` (`40_ir_frame_engine.md` R70). -/
def frameWord (cfg : Params) (c : Chan) (p : Byte) : CommandWord :=
  cfg.marker ++ c.zeroExtend 4 ++ dataNibble p ++
    checksum cfg.marker (c.zeroExtend 4) (dataNibble p)

/-- The channel field of a command word; bits 11:10 are 0 (`30_encoding.md` R57, R58). -/
def wordChannel (w : CommandWord) : Chan := w.extractLsb' 8 2

/-- The data nibble of a command word as a PWM byte (`30_encoding.md` R58). -/
def wordData (w : CommandWord) : Byte := (w.extractLsb' 4 4).zeroExtend 8

/-- A number of ticks as a 16-bit compare value (`10_state.md` R19). -/
def ticks (n : Nat) : Count := BitVec.ofNat 16 n

/-- Length of the start or the stop symbol (`30_encoding.md` R60). -/
def edgeSymbol (cfg : Params) : Nat := cfg.tMark + cfg.tGaps

/-- Length of a data bit's symbol (`30_encoding.md` R60). -/
def bitSymbol (cfg : Params) (v : Bool) : Nat :=
  cfg.tMark + (if v then cfg.tGap1 else cfg.tGap0)

/-- `Trailing(z)` in unsigned integers (`40_ir_frame_engine.md` R71). -/
def trailing (cfg : Params) (z : Nat) : Nat :=
  cfg.tFrame - 2 * (cfg.tMark + cfg.tGaps) - 16 * (cfg.tMark + cfg.tGap1)
    + z * (cfg.tGap1 - cfg.tGap0)

end Sys2Proof.Machine
end

