-- ==== Sys2Proof/Syntax.lean ====
section
/-! DEFINITION. The state names of the two engines, the events of `00_scope.md` R9, the codes that the
decoder reads, and `Instr`: one constructor per row of `opcode_table.json` (`30_encoding.md` R66). -/

namespace Sys2Proof

/-- `tstate` (`10_state.md` R17); the arguments of SendingBit are `bitval` and `bitpos`. -/
inductive TState where
  | stopped
  | starting
  | sendingStartMark
  | sendingBit
  | sendingStopMark
deriving DecidableEq, Repr

/-- `pstate` (`10_state.md` R20). -/
inductive PState where
  | awaitingAddress
  | awaitingRegisterSelect
  | awaitingWriteData
  | streamingReadData
deriving DecidableEq, Repr

/-- The answer to a received byte (`00_scope.md` R8): ACK, NACK, or NONE (line left released). -/
inductive Answer where
  | ack
  | nack
  | none
deriving DecidableEq, Repr

/-- The host's acknowledgment bit after a byte sent by the block (`30_encoding.md` R55). -/
inductive HostAck where
  | ack
  | nack
deriving DecidableEq, Repr

/-- The events of the two engines (`00_scope.md` R9, `60_exceptions.md` R166). -/
inductive Event where
  | start
  | stop
  | rxByte (b : Byte)
  | hack (a : HostAck)
  | cmpA
  | cmpB
deriving DecidableEq, Repr

/-- What the decoder reads: an event (formats ADDR, SEL, WDATA, ACKBIT and EVENT), the register address
that the read multiplexer is asked for at ADDR.R (format RDATA), a command word (format IRWORD), or the
internal call of the scheduler step (format INTERNAL). -/
inductive Code where
  | event (e : Event)
  | read (a : Byte)
  | irWord (w : CommandWord)
  | schedCall
deriving DecidableEq, Repr

/-- One constructor per row of `opcode_table.json`. -/
inductive Instr where
  /-- ADDR.X: an address byte for another device (R109); its two fields. -/
  | addrX (addr : BitVec 7) (dir : Bool)
  /-- ADDR.W: matching address byte, write direction (R111). -/
  | addrW
  /-- ADDR.R: matching address byte, read direction (R110). -/
  | addrR
  /-- SEL.VERSION, 0x00 (R112). -/
  | selVersion
  /-- SEL.VENDOR, 0x08 (R112). -/
  | selVendor
  /-- SEL.PRODUCT, 0x10 (R112). -/
  | selProduct
  /-- SEL.STATUS, 0x42 (R112). -/
  | selStatus
  /-- SEL.DISABLE, 0x43 (R112). -/
  | selDisable
  /-- SEL.ENABLE, 0x44 (R112). -/
  | selEnable
  /-- SEL.PWM0, 0x50 (R112). -/
  | selPwm0
  /-- SEL.PWM1, 0x51 (R112). -/
  | selPwm1
  /-- SEL.PWM2, 0x52 (R112). -/
  | selPwm2
  /-- SEL.PWM3, 0x53 (R112). -/
  | selPwm3
  /-- SEL.BAD: a select byte outside the register map (R112). -/
  | selBad (b : Byte)
  /-- WR.STATUS (R141). -/
  | wrStatus (d : Byte)
  /-- WR.DISABLE (R142). -/
  | wrDisable (d : Byte)
  /-- WR.ENABLE (R143). -/
  | wrEnable (d : Byte)
  /-- WR.PWM0 (R144). -/
  | wrPwm0 (d : Byte)
  /-- WR.PWM1 (R145). -/
  | wrPwm1 (d : Byte)
  /-- WR.PWM2 (R146). -/
  | wrPwm2 (d : Byte)
  /-- WR.PWM3 (R147). -/
  | wrPwm3 (d : Byte)
  /-- WR.RO: a data byte for a read-only register (R148). -/
  | wrRo (d : Byte)
  /-- RD.VERSION (R131). -/
  | rdVersion
  /-- RD.VENDOR (R132). -/
  | rdVendor
  /-- RD.PRODUCT (R133). -/
  | rdProduct
  /-- RD.STATUS (R134). -/
  | rdStatus
  /-- RD.PWM0 (R135). -/
  | rdPwm0
  /-- RD.PWM1 (R136). -/
  | rdPwm1
  /-- RD.PWM2 (R137). -/
  | rdPwm2
  /-- RD.PWM3 (R138). -/
  | rdPwm3
  /-- RD.WO: read of a write-only register (R139). -/
  | rdWo
  /-- HACK: the host acknowledges a byte of a read (R115). -/
  | hack
  /-- HNACK: the host ends a read (R116). -/
  | hnack
  /-- S.START (R105). -/
  | sStart
  /-- S.STOP (R106). -/
  | sStop
  /-- TB.STOPPED (R81). -/
  | tbStopped
  /-- TB.STARTING (R74). -/
  | tbStarting
  /-- TA.STARTMARK (R75). -/
  | taStartmark
  /-- TB.STARTMARK (R76). -/
  | tbStartmark
  /-- TA.BIT (R77). -/
  | taBit
  /-- TB.BIT (R78). -/
  | tbBit
  /-- TA.STOPMARK (R79). -/
  | taStopmark
  /-- TB.STOPMARK (R80). -/
  | tbStopmark
  /-- SCHED: the scheduler step (R90). -/
  | sched
  /-- FRAME: the command word of channel `c` with PWM byte `p` (R70). -/
  | frame (c : Chan) (p : Byte)
deriving DecidableEq, Repr

end Sys2Proof
end

