-- ==== Sys2Proof/WellFormed.lean ====
section
/-! DEFINITION. Well-formed instructions: the operand values that an encoding of `30_encoding.md`
admits. The checks are those of the table's context column on the operands (ADDR.X, SEL.BAD) and the
four bits of a PWM byte that a command word has no place for (FRAME). -/

namespace Sys2Proof

/-- ADDR.X carries an address other than DEVICE_ADDRESS (R109); SEL.BAD a byte outside the register map
(R112); FRAME's encoding carries only the low nibble of the PWM byte (R58, R70), so an encoded FRAME has
a high nibble of 0. Every other operand may be any value. -/
def Instr.wellFormed (c : Params) : Instr → Bool
  | .addrX addr _ => decide (addr ≠ c.deviceAddress)
  | .selBad b => decide (b ∉ Machine.whitelist)
  | .frame _ p => decide (p.extractLsb' 4 4 = 0)
  | .addrW | .addrR => true
  | .selVersion | .selVendor | .selProduct | .selStatus | .selDisable | .selEnable => true
  | .selPwm0 | .selPwm1 | .selPwm2 | .selPwm3 => true
  | .wrStatus _ | .wrDisable _ | .wrEnable _ => true
  | .wrPwm0 _ | .wrPwm1 _ | .wrPwm2 _ | .wrPwm3 _ | .wrRo _ => true
  | .rdVersion | .rdVendor | .rdProduct | .rdStatus => true
  | .rdPwm0 | .rdPwm1 | .rdPwm2 | .rdPwm3 | .rdWo => true
  | .hack | .hnack | .sStart | .sStop => true
  | .tbStopped | .tbStarting | .taStartmark | .tbStartmark => true
  | .taBit | .tbBit | .taStopmark | .tbStopmark | .sched => true

end Sys2Proof
end

