-- ==== Sys2Proof/Decode.lean ====
section
/-! DEFINITION. The decoder (`30_encoding.md`): which row a byte, a bit or an event is, given the state
in which it arrives (R50: "never by the byte itself"); every other input is rejected by name. After it
the encoder, and the context of each row (the table's context column). -/

namespace Sys2Proof

/-- The part of the state that the decoder reads: the contexts of `opcode_table.json`. -/
structure Context where
  pstate : PState
  armed : Bool
  sel : Byte
  tstate : TState
  carrierOn : Bool
deriving DecidableEq, Repr

/-- Why an input is no row of the table. -/
inductive Rejection where
  /-- A byte in AwaitingAddress with `armed` = 0: ignored, answer NONE (`42_serial_protocol.md` R108). -/
  | unarmedByte
  /-- A byte while the block itself is sending: ignored, answer NONE (`42_serial_protocol.md` R117). -/
  | byteWhileStreaming
  /-- CMPA in Stopped or Starting, or with the carrier off: the timer cannot raise it
  (`40_ir_frame_engine.md` R84, R72). -/
  | cmpaOutsideMark
  /-- CMPB with the carrier on: the timer cannot raise it (`40_ir_frame_engine.md` R72). -/
  | cmpbDuringMark
  /-- The read multiplexer asked for an address outside the register map (`43_serial_registers.md` R130:
  never called so). -/
  | unmappedRead
  /-- A 16-bit word whose bits 11:10 are not 0 (`30_encoding.md` R57, R58). -/
  | notACommandWord
deriving DecidableEq, Repr

/-- What the decoder answers. -/
inductive Decoded where
  | instr (i : Instr)
  | rejected (r : Rejection)
deriving DecidableEq, Repr

/-- Format ADDR (`30_encoding.md` R51). -/
def decodeAddr (c : Params) (b : Byte) : Instr :=
  if Machine.addrField b = c.deviceAddress then
    if Machine.dirField b then .addrR else .addrW
  else .addrX (Machine.addrField b) (Machine.dirField b)

/-- Format SEL (`30_encoding.md` R52). -/
def decodeSel (b : Byte) : Instr :=
  if b = 0x00#8 then .selVersion
  else if b = 0x08#8 then .selVendor
  else if b = 0x10#8 then .selProduct
  else if b = 0x42#8 then .selStatus
  else if b = 0x43#8 then .selDisable
  else if b = 0x44#8 then .selEnable
  else if b = 0x50#8 then .selPwm0
  else if b = 0x51#8 then .selPwm1
  else if b = 0x52#8 then .selPwm2
  else if b = 0x53#8 then .selPwm3
  else .selBad b

/-- Format WDATA (`30_encoding.md` R53); any other `sel` is refused as WR.RO
(`42_serial_protocol.md` R113, log 23). -/
def decodeWData (sel d : Byte) : Instr :=
  if sel = 0x42#8 then .wrStatus d
  else if sel = 0x43#8 then .wrDisable d
  else if sel = 0x44#8 then .wrEnable d
  else if sel = 0x50#8 then .wrPwm0 d
  else if sel = 0x51#8 then .wrPwm1 d
  else if sel = 0x52#8 then .wrPwm2 d
  else if sel = 0x53#8 then .wrPwm3 d
  else .wrRo d

/-- Format RDATA: the row of the read multiplexer for register `a` (`43_serial_registers.md` R130 to
R139). -/
def decodeRead (a : Byte) : Decoded :=
  if a = 0x00#8 then .instr .rdVersion
  else if a = 0x08#8 then .instr .rdVendor
  else if a = 0x10#8 then .instr .rdProduct
  else if a = 0x42#8 then .instr .rdStatus
  else if a = 0x50#8 then .instr .rdPwm0
  else if a = 0x51#8 then .instr .rdPwm1
  else if a = 0x52#8 then .instr .rdPwm2
  else if a = 0x53#8 then .instr .rdPwm3
  else if a = 0x43#8 then .instr .rdWo
  else if a = 0x44#8 then .instr .rdWo
  else .rejected .unmappedRead

/-- A received byte: the format is decided by the state (`42_serial_protocol.md` R107). -/
def decodeByte (c : Params) (x : Context) (b : Byte) : Decoded :=
  match x.pstate with
  | .awaitingAddress =>
    if x.armed then .instr (decodeAddr c b) else .rejected .unarmedByte
  | .awaitingRegisterSelect => .instr (decodeSel b)
  | .awaitingWriteData => .instr (decodeWData x.sel b)
  | .streamingReadData => .rejected .byteWhileStreaming

/-- Format ACKBIT (`30_encoding.md` R55). -/
def decodeAck : HostAck → Instr
  | .ack => .hack
  | .nack => .hnack

/-- Event CMPA (`60_exceptions.md` R166; `40_ir_frame_engine.md` R84). -/
def decodeCmpA (x : Context) : Decoded :=
  if x.carrierOn then
    match x.tstate with
    | .sendingStartMark => .instr .taStartmark
    | .sendingBit => .instr .taBit
    | .sendingStopMark => .instr .taStopmark
    | .stopped => .rejected .cmpaOutsideMark
    | .starting => .rejected .cmpaOutsideMark
  else .rejected .cmpaOutsideMark

/-- Event CMPB (`60_exceptions.md` R166). -/
def decodeCmpB (x : Context) : Decoded :=
  if x.carrierOn then .rejected .cmpbDuringMark
  else
    match x.tstate with
    | .stopped => .instr .tbStopped
    | .starting => .instr .tbStarting
    | .sendingStartMark => .instr .tbStartmark
    | .sendingBit => .instr .tbBit
    | .sendingStopMark => .instr .tbStopmark

/-- An event in a context. -/
def decodeEvent (c : Params) (x : Context) : Event → Decoded
  | .start => .instr .sStart
  | .stop => .instr .sStop
  | .rxByte b => decodeByte c x b
  | .hack a => .instr (decodeAck a)
  | .cmpA => decodeCmpA x
  | .cmpB => decodeCmpB x

/-- Format IRWORD: the channel and the data nibble of a word with bits 11:10 equal to 0. Marker and
checksum are made by FRAME, not read by it (log 9). -/
def decodeIrWord (w : CommandWord) : Decoded :=
  if w.extractLsb' 10 2 = 0 then
    .instr (.frame (Machine.wordChannel w) (Machine.wordData w))
  else .rejected .notACommandWord

/-- The decoder, total on codes and contexts. -/
def decode (c : Params) (x : Context) : Code → Decoded
  | .event e => decodeEvent c x e
  | .read a => decodeRead a
  | .irWord w => decodeIrWord w
  | .schedCall => .instr .sched

/-- The encoder: the code of an instruction, from the tables of `30_encoding.md` R51 to R58. RD.WO has
two codes, 0x43 and 0x44; the first is given. -/
def encode (c : Params) : Instr → Code
  | .addrX addr dir => .event (.rxByte (Machine.addressByte addr dir))
  | .addrW => .event (.rxByte (Machine.addressByte c.deviceAddress false))
  | .addrR => .event (.rxByte (Machine.addressByte c.deviceAddress true))
  | .selVersion => .event (.rxByte 0x00#8)
  | .selVendor => .event (.rxByte 0x08#8)
  | .selProduct => .event (.rxByte 0x10#8)
  | .selStatus => .event (.rxByte 0x42#8)
  | .selDisable => .event (.rxByte 0x43#8)
  | .selEnable => .event (.rxByte 0x44#8)
  | .selPwm0 => .event (.rxByte 0x50#8)
  | .selPwm1 => .event (.rxByte 0x51#8)
  | .selPwm2 => .event (.rxByte 0x52#8)
  | .selPwm3 => .event (.rxByte 0x53#8)
  | .selBad b => .event (.rxByte b)
  | .wrStatus d => .event (.rxByte d)
  | .wrDisable d => .event (.rxByte d)
  | .wrEnable d => .event (.rxByte d)
  | .wrPwm0 d => .event (.rxByte d)
  | .wrPwm1 d => .event (.rxByte d)
  | .wrPwm2 d => .event (.rxByte d)
  | .wrPwm3 d => .event (.rxByte d)
  | .wrRo d => .event (.rxByte d)
  | .rdVersion => .read 0x00#8
  | .rdVendor => .read 0x08#8
  | .rdProduct => .read 0x10#8
  | .rdStatus => .read 0x42#8
  | .rdPwm0 => .read 0x50#8
  | .rdPwm1 => .read 0x51#8
  | .rdPwm2 => .read 0x52#8
  | .rdPwm3 => .read 0x53#8
  | .rdWo => .read 0x43#8
  | .hack => .event (.hack .ack)
  | .hnack => .event (.hack .nack)
  | .sStart => .event .start
  | .sStop => .event .stop
  | .tbStopped => .event .cmpB
  | .tbStarting => .event .cmpB
  | .taStartmark => .event .cmpA
  | .tbStartmark => .event .cmpB
  | .taBit => .event .cmpA
  | .tbBit => .event .cmpB
  | .taStopmark => .event .cmpA
  | .tbStopmark => .event .cmpB
  | .sched => .schedCall
  | .frame ch p => .irWord (Machine.frameWord c ch p)

/-- An armed address byte is expected. -/
def Context.expectsAddress (x : Context) : Bool :=
  decide (x.pstate = .awaitingAddress) && x.armed

/-- A data byte for register `a` is expected. -/
def Context.expectsData (x : Context) (a : Byte) : Bool :=
  decide (x.pstate = .awaitingWriteData) && decide (x.sel = a)

/-- The mark of a symbol of state `t` is on. -/
def Context.inMark (x : Context) (t : TState) : Bool := decide (x.tstate = t) && x.carrierOn

/-- The carrier is off in state `t`. -/
def Context.inGap (x : Context) (t : TState) : Bool := decide (x.tstate = t) && !x.carrierOn

/-- The context column of `opcode_table.json`: where the row's code is that row. The timer rows also
carry R72's condition on `carrier_on`. -/
def Instr.inContext (x : Context) : Instr → Bool
  | .addrX _ _ => x.expectsAddress
  | .addrW => x.expectsAddress
  | .addrR => x.expectsAddress
  | .selVersion | .selVendor | .selProduct => decide (x.pstate = .awaitingRegisterSelect)
  | .selStatus | .selDisable | .selEnable => decide (x.pstate = .awaitingRegisterSelect)
  | .selPwm0 | .selPwm1 | .selPwm2 | .selPwm3 => decide (x.pstate = .awaitingRegisterSelect)
  | .selBad _ => decide (x.pstate = .awaitingRegisterSelect)
  | .wrStatus _ => x.expectsData 0x42#8
  | .wrDisable _ => x.expectsData 0x43#8
  | .wrEnable _ => x.expectsData 0x44#8
  | .wrPwm0 _ => x.expectsData 0x50#8
  | .wrPwm1 _ => x.expectsData 0x51#8
  | .wrPwm2 _ => x.expectsData 0x52#8
  | .wrPwm3 _ => x.expectsData 0x53#8
  | .wrRo _ => decide (x.pstate = .awaitingWriteData) && !Machine.writable x.sel
  | .rdVersion | .rdVendor | .rdProduct | .rdStatus => true
  | .rdPwm0 | .rdPwm1 | .rdPwm2 | .rdPwm3 | .rdWo => true
  | .hack | .hnack | .sStart | .sStop => true
  | .tbStopped => x.inGap .stopped
  | .tbStarting => x.inGap .starting
  | .taStartmark => x.inMark .sendingStartMark
  | .tbStartmark => x.inGap .sendingStartMark
  | .taBit => x.inMark .sendingBit
  | .tbBit => x.inGap .sendingBit
  | .taStopmark => x.inMark .sendingStopMark
  | .tbStopmark => x.inGap .sendingStopMark
  | .sched => true
  | .frame _ _ => true

/-- The context in which a register-select byte is read: the one context in which a byte alone names its
row (`30_encoding.md` R50, R52). -/
def selectContext : Context where
  pstate := .awaitingRegisterSelect
  armed := false
  sel := 0xFF#8
  tstate := .stopped
  carrierOn := false

/-- The code that a table word of `nbits` bits is read as (log 4): 8 bits are a byte in the SEL context,
16 bits a command word, 1 bit the host's acknowledgment bit (0 is ACK, R55). -/
def tableCode (nbits w : Nat) : Option Code :=
  match nbits with
  | 1 => some (.event (.hack (if w % 2 = 0 then .ack else .nack)))
  | 8 => some (.event (.rxByte (BitVec.ofNat 8 w)))
  | 16 => some (.irWord (BitVec.ofNat 16 w))
  | _ => none

/-- The instruction that the decoder reads from a table word (log 4). -/
def decodeTableWord (nbits w : Nat) : Option Instr :=
  match tableCode nbits w with
  | some code =>
    match decode Params.testVectors selectContext code with
    | .instr i => some i
    | .rejected _ => none
  | none => none

end Sys2Proof
end

