-- ==== Sys2Proof/Machine/State.lean ====
section
/-! DEFINITION. The state of the block (`10_state.md` R10 to R28), grouped by owner (R29), and the state
after reset (R28). The fields `cfg`, `inputs` and `edges` are the model's own (log 1, log 2, log 3). -/

namespace Sys2Proof.Machine

/-- `ChannelRegistry`: the only state the two engines share (`10_state.md` R11 to R15). -/
structure Registry where
  /-- `en[3:0]`, bit `k` for channel `k` (R11). -/
  en : ChanMask
  /-- `pwm[0..3]` (R12). -/
  pwm : Vector Byte 4
  /-- `countdown[0..3]` (R13). -/
  countdown : Vector Byte 4
  /-- `cur` (R14). -/
  cur : Chan
  /-- `waiting` (R15). -/
  waiting : Bool
deriving DecidableEq, Repr

/-- The IR engine's private state and its timer (`10_state.md` R17 to R19). -/
structure IrEngine where
  tstate : TState
  shreg : CommandWord
  bitval : Bool
  bitpos : BitVec 4
  zeros : BitVec 5
  tcnt : Count
  cmpa : Count
  cmpb : Count
  /-- `carrier_on`, which is the output port `ir_env` (R19, R85). -/
  carrierOn : Bool
deriving DecidableEq, Repr

/-- The serial engine's private state (`10_state.md` R20 to R23). -/
structure SerialEngine where
  pstate : PState
  sel : Byte
  buf : Vector Byte 8
  cursor : BitVec 3
  armed : Bool
deriving DecidableEq, Repr

/-- The bit layer's state (`10_state.md` R24). `ackres` holds the answer to the byte just received. -/
structure BitLayer where
  sreg : Byte
  bitcnt : BitVec 4
  dirtx : Bool
  ackres : Answer
  sclQ : Bool
  sdaQ : Bool
  sdaOe : Bool
deriving DecidableEq, Repr

/-- One input of the environment: a rising edge of `clk` with its port levels, the assertion of `rst_n`
between edges (`70_reset_and_hazards.md` R180), or an event delivered at event level
(`00_scope.md` R9). -/
inductive Input where
  | clk (p : Ports)
  | asyncReset
  | event (e : Event)
deriving DecidableEq, Repr

/-- The whole machine. -/
structure State where
  /-- The configuration, which nothing writes (`10_state.md` R25; log 3). -/
  cfg : Params
  reg : Registry
  ir : IrEngine
  ser : SerialEngine
  bus : BitLayer
  /-- Inputs still to come, in order (the model's own; log 1). -/
  inputs : List Input
  /-- Clk edges taken from the free schedule (the model's own; log 2). -/
  edges : Nat
deriving DecidableEq, Repr

/-- Why the machine stops. The block has no fatal condition (`60_exceptions.md` R165). -/
inductive Fault where
  /-- Raised by the timer when CMPA matches in Stopped or Starting, which have no handler for it
  (`40_ir_frame_engine.md` R84). No reachable state does this: the carrier is off there. Safe: it admits
  no behaviour. -/
  | cmpaWithoutHandler
deriving DecidableEq, Repr

/-- Why a step has no meaning. -/
inductive Refusal where
  /-- An instruction of the table that has no meaning yet. No arm of `exec` answers it. Safe. -/
  | notModelled (mnemonic : String)
  /-- Raised when a CMPA or CMPB is delivered at event level where the timer cannot raise it
  (`40_ir_frame_engine.md` R84, R72). Safe: the block has no such step. -/
  | timerEventNotRaised
  /-- Raised for a code that no event carries (a read-multiplexer address or a word). No event decodes to
  it. Safe. -/
  | codeIsNoEvent
deriving DecidableEq, Repr

/-- The part of the state that the decoder reads. -/
def State.context (s : State) : Context where
  pstate := s.ser.pstate
  armed := s.ser.armed
  sel := s.ser.sel
  tstate := s.ir.tstate
  carrierOn := s.ir.carrierOn

/-- Reset values of the registry (`10_state.md` R28). -/
def Registry.reset (c : Params) : Registry where
  en := 0
  pwm := Vector.replicate 4 0
  countdown := c.period
  cur := 0
  waiting := true

/-- Reset values of the IR engine (`10_state.md` R28). -/
def IrEngine.reset (c : Params) : IrEngine where
  tstate := .stopped
  shreg := 0
  bitval := false
  bitpos := 0
  zeros := 0
  tcnt := 0
  cmpa := 0
  cmpb := ticks c.tFrame
  carrierOn := false

/-- Reset values of the serial engine (`10_state.md` R28). -/
def SerialEngine.reset (c : Params) : SerialEngine where
  pstate := .awaitingAddress
  sel := c.sentinel
  buf := Vector.replicate 8 0
  cursor := 0
  armed := false

/-- Reset values of the bit layer (`10_state.md` R28). -/
def BitLayer.reset : BitLayer where
  sreg := 0
  bitcnt := 0
  dirtx := false
  ackres := .none
  sclQ := true
  sdaQ := true
  sdaOe := false

/-- The state after reset for a configuration (`10_state.md` R28), with no input queued (log 13). -/
def State.resetWith (c : Params) : State where
  cfg := c
  reg := .reset c
  ir := .reset c
  ser := .reset c
  bus := .reset
  inputs := []
  edges := 0

/-- The machine right after reset (`10_state.md` R28) with the configuration `Config.params` (log 3). -/
def State.reset : State := State.resetWith Config.params

end Sys2Proof.Machine
end

