-- ==== Sys2Proof/Machine/Flags.lean ====
section
/-! DEFINITION. Flag computations. The block has no arithmetic condition codes (`10_state.md` R27); its
flags are the four enable flags, `waiting` and the field `cur`, gathered in the status byte, and the
count of 0 bits sent. -/

namespace Sys2Proof.Machine

/-- `StatusByte()`: bit 7 reads 0, then `waiting`, `cur`, `en[3:0]` (`30_encoding.md` R56). -/
def statusByte (r : Registry) : Byte := 0#1 ++ BitVec.ofBool r.waiting ++ r.cur ++ r.en

/-- Write of 0x42: all four flags replaced (`43_serial_registers.md` R141). -/
def replaceEnables (_en : ChanMask) (d : Byte) : ChanMask := maskField d

/-- Write of 0x43: each set bit clears a flag (`43_serial_registers.md` R142). -/
def disableMask (en : ChanMask) (d : Byte) : ChanMask := en &&& ~~~(maskField d)

/-- Write of 0x44: each set bit sets a flag (`43_serial_registers.md` R143). -/
def enableMask (en : ChanMask) (d : Byte) : ChanMask := en ||| maskField d

/-- `zeros` after a data bit is latched: one more for a 0 bit (`40_ir_frame_engine.md` R76, R78). -/
def countZero (zeros : BitVec 5) (bit : Bool) : BitVec 5 := if bit then zeros else zeros + 1

end Sys2Proof.Machine
end

