-- ==== Sys2Proof/Machine/Ops.lean ====
section
/-! DEFINITION. The shared operations: taking a violation or an abort (`60_exceptions.md` R161, R162; the
block has no return, R170), the answer to a byte, the register multiplexers (`43_serial_registers.md`
R130, R140), and the helpers of the frame engine (`40_ir_frame_engine.md` R73 to R79). -/

namespace Sys2Proof.Machine

/-- Run one outcome after another (two handlers on one clk edge, `60_exceptions.md` R168). -/
def andThen (o : Host.Outcome State Fault Refusal) (f : State → Host.Outcome State Fault Refusal) :
    Host.Outcome State Fault Refusal :=
  match o with
  | .next s => f s
  | .fault r => .fault r
  | .refused r => .refused r

/-- The causes of `60_exceptions.md` R160. -/
inductive Cause where
  | addrMismatch
  | readNoSelect
  | readWriteOnly
  | badRegister
  | writeReadOnly
deriving DecidableEq, Repr

/-- The answer to the byte just received, as the bit layer takes it (`42_serial_protocol.md` R102;
log 5). -/
def State.answer (s : State) (a : Answer) : State := { s with bus := { s.bus with ackres := a } }

/-- Back to the known state: selection cleared, address-await, not armed (`42_serial_protocol.md` R118). -/
def State.recover (s : State) : State :=
  { s with ser := { s.ser with sel := s.cfg.sentinel, pstate := .awaitingAddress, armed := false } }

/-- `raise Violation(cause)`: the same for every cause, which is recorded nowhere
(`60_exceptions.md` R161, R163). -/
def violation (_cause : Cause) (s : State) : State := s.recover.answer .nack

/-- `raise Abort` (`60_exceptions.md` R162). -/
def abort (s : State) : State := s.recover

/-- `MemRead(a, n)`: the bytes of register `a` (`43_serial_registers.md` R130). It is not called for an
address that is not readable; it then gives no byte. -/
def memRead (c : Params) (r : Registry) (a : Byte) : List Byte :=
  if a = 0x00#8 then c.versionStr.toList
  else if a = 0x08#8 then c.vendorStr.toList
  else if a = 0x10#8 then c.productStr.toList
  else if a = 0x42#8 then [statusByte r]
  else if a = 0x50#8 then [chanGet r.pwm 0]
  else if a = 0x51#8 then [chanGet r.pwm 1]
  else if a = 0x52#8 then [chanGet r.pwm 2]
  else if a = 0x53#8 then [chanGet r.pwm 3]
  else []

/-- `MemWrite(a, 1, d)`: the registry after byte `d` is written to register `a`
(`43_serial_registers.md` R140). It is not called for an address that is not writable. -/
def memWrite (a d : Byte) (r : Registry) : Registry :=
  if a = 0x42#8 then { r with en := replaceEnables r.en d }
  else if a = 0x43#8 then { r with en := disableMask r.en d }
  else if a = 0x44#8 then { r with en := enableMask r.en d }
  else if a = 0x50#8 then { r with pwm := chanSet r.pwm 0 d }
  else if a = 0x51#8 then { r with pwm := chanSet r.pwm 1 d }
  else if a = 0x52#8 then { r with pwm := chanSet r.pwm 2 d }
  else if a = 0x53#8 then { r with pwm := chanSet r.pwm 3 d }
  else r

/-- The first bytes of a buffer replaced, the others kept. -/
def storePrefix (bytes : List Byte) (buf : Vector Byte 8) : Vector Byte 8 :=
  Vector.ofFn fun i : Fin 8 => bytes.getD i.val buf[i]

/-- `buf[0 .. Width(a)-1] <- MemRead(a, Width(a))` (`42_serial_protocol.md` R110). -/
def loadBuffer (a : Byte) (s : State) : State :=
  { s with ser := { s.ser with buf := storePrefix (memRead s.cfg s.reg a) s.ser.buf } }

/-- Entry to StreamingReadData: `cursor <- 0; pstate <- StreamingReadData` (`42_serial_protocol.md`
R110). -/
def enterStreaming (s : State) : State :=
  { s with ser := { s.ser with cursor := 0, pstate := .streamingReadData } }

/-- The one received byte after a START is taken as the address byte (`42_serial_protocol.md` R107). -/
def disarm (s : State) : State := { s with ser := { s.ser with armed := false } }

/-- A register is selected: `sel <- b; pstate <- AwaitingWriteData; return ACK`
(`42_serial_protocol.md` R112). -/
def selectRegister (a : Byte) (s : State) : State :=
  ({ s with ser := { s.ser with sel := a, pstate := .awaitingWriteData } } : State).answer .ack

/-- An accepted write: the registry is written, the selection cleared, ACK (`42_serial_protocol.md`
R113). -/
def writeRegister (a d : Byte) (s : State) : State :=
  ({ s with reg := memWrite a d s.reg } : State).recover.answer .ack

/-- `BeginMark()` (`40_ir_frame_engine.md` R73). -/
def beginMark (c : Params) (e : IrEngine) : IrEngine :=
  { e with tcnt := 0, carrierOn := true, cmpa := ticks c.tMark }

/-- The end of a mark: the carrier goes off and the boundary compare is set to the symbol's length
(`40_ir_frame_engine.md` R75, R77, R79). -/
def endMark (n : Nat) (e : IrEngine) : IrEngine := { e with carrierOn := false, cmpb := ticks n }

/-- The next data bit is shifted out of the command word and counted if it is 0
(`40_ir_frame_engine.md` R76, R78). -/
def latchBit (e : IrEngine) : IrEngine :=
  { e with
    bitval := e.shreg.getLsbD 15
    shreg := e.shreg <<< 1
    zeros := countZero e.zeros (e.shreg.getLsbD 15) }

/-- The start of a frame: `tstate <- SendingStartMark; zeros <- 0; BeginMark()`
(`40_ir_frame_engine.md` R74, R81). -/
def beginFrame (c : Params) (e : IrEngine) : IrEngine :=
  beginMark c { e with tstate := .sendingStartMark, zeros := 0 }

end Sys2Proof.Machine
end

