-- ==== Sys2Proof/Machine/AckBit.lean ====
section
/-! DEFINITION. The host's acknowledgment bit: HACK and HNACK (`42_serial_protocol.md` R115, R116;
ignored outside a read, R117). -/

namespace Sys2Proof.Machine

/-- `(cursor + 1) mod Width(sel)` (`42_serial_protocol.md` R115). -/
def cursorNext (sel : Byte) (cursor : BitVec 3) : BitVec 3 :=
  BitVec.ofNat 3 ((cursor.toNat + 1) % width sel)

/-- HACK (`42_serial_protocol.md` R115, R117). -/
def execHack (s : State) : Host.Outcome State Fault Refusal :=
  if s.ser.pstate = .streamingReadData then
    .next { s with ser := { s.ser with cursor := cursorNext s.ser.sel s.ser.cursor } }
  else .next s

/-- HNACK (`42_serial_protocol.md` R116, R117). -/
def execHnack (s : State) : Host.Outcome State Fault Refusal :=
  if s.ser.pstate = .streamingReadData then .next (abort s) else .next s

end Sys2Proof.Machine
end

