-- ==== Sys2Proof/Machine/Address.lean ====
section
/-! DEFINITION. The address byte: ADDR.X, ADDR.W, ADDR.R (`42_serial_protocol.md` R109 to R111), with the
`armed <- 0` of R107. -/

namespace Sys2Proof.Machine

/-- ADDR.X (`42_serial_protocol.md` R109). -/
def execAddrX (_addr : BitVec 7) (_dir : Bool) (s : State) : Host.Outcome State Fault Refusal :=
  .next (violation .addrMismatch (disarm s))

/-- ADDR.W (`42_serial_protocol.md` R111). -/
def execAddrW (s : State) : Host.Outcome State Fault Refusal :=
  if s.ser.sel ≠ s.cfg.sentinel then
    .next (({ disarm s with
      ser := { (disarm s).ser with pstate := .awaitingWriteData } } : State).answer .ack)
  else
    .next (({ disarm s with
      ser := { (disarm s).ser with pstate := .awaitingRegisterSelect } } : State).answer .ack)

/-- ADDR.R (`42_serial_protocol.md` R110). -/
def execAddrR (s : State) : Host.Outcome State Fault Refusal :=
  if s.ser.sel = s.cfg.sentinel then .next (violation .readNoSelect (disarm s))
  else if readable s.ser.sel = false then .next (violation .readWriteOnly (disarm s))
  else .next ((enterStreaming (loadBuffer s.ser.sel (disarm s))).answer .ack)

end Sys2Proof.Machine
end

