-- ==== Sys2Proof/Machine/Bus.lean ====
section
/-! DEFINITION. The bus conditions at the byte level: S.START and S.STOP (`42_serial_protocol.md` R105,
R106). -/

namespace Sys2Proof.Machine

/-- S.START (`42_serial_protocol.md` R105). -/
def execSStart (s : State) : Host.Outcome State Fault Refusal :=
  .next { s with ser := { s.ser with pstate := .awaitingAddress, armed := true } }

/-- S.STOP (`42_serial_protocol.md` R106). -/
def execSStop (s : State) : Host.Outcome State Fault Refusal :=
  .next { s with ser := { s.ser with pstate := .awaitingAddress, armed := false } }

end Sys2Proof.Machine
end

