-- ==== Sys2Proof/Machine/Scheduler.lean ====
section
/-! DEFINITION. The scheduler step and the arbiter (`41_ir_scheduler.md` R90 to R94), and the meanings of
SCHED and FRAME. -/

namespace Sys2Proof.Machine

/-- The countdown of one channel minus 1, modulo 256 (`41_ir_scheduler.md` R91). -/
def decremented (r : Registry) (k : Chan) : Byte := chanGet r.countdown k - 1

/-- Freshly eligible: the countdown reaches 0 in this step (`41_ir_scheduler.md` R91). -/
def fresh (r : Registry) (k : Chan) : Bool := decide (decremented r k = 0)

/-- The new countdown of channel `k` (`41_ir_scheduler.md` R91). -/
def countdownNext (c : Params) (r : Registry) (k : Chan) : Byte :=
  if fresh r k then chanGet c.period k else decremented r k

/-- The four bits `elig` of `CountdownUpdate()` (`41_ir_scheduler.md` R91). -/
def eligible (r : Registry) : ChanMask :=
  BitVec.ofBool (fresh r 3) ++ BitVec.ofBool (fresh r 2) ++ BitVec.ofBool (fresh r 1) ++
    BitVec.ofBool (fresh r 0)

/-- The registry after `CountdownUpdate()` (`41_ir_scheduler.md` R91). -/
def countdownUpdate (c : Params) (r : Registry) : Registry :=
  { r with
    countdown := #v[countdownNext c r 0, countdownNext c r 1, countdownNext c r 2, countdownNext c r 3] }

/-- The first channel of `(cur + j) mod 4`, `j` in the list, whose bit is set in `m`. -/
def firstFrom (m : ChanMask) (cur : Chan) : List Chan → Option Chan
  | [] => none
  | j :: js => if bitOf m (cur + j) then some (cur + j) else firstFrom m cur js

/-- `NextChannel(cur, elig, en)` (`41_ir_scheduler.md` R93); the offset 4 is 0 modulo 4. -/
def nextChannel (cur : Chan) (elig en : ChanMask) : Chan :=
  match firstFrom (elig &&& en) cur [1, 2, 3, 0] with
  | some k => k
  | none =>
    if bitOf en cur then cur
    else
      match firstFrom en cur [1, 2, 3] with
      | some k => k
      | none => cur

/-- The command word of the current channel from the live registry (`41_ir_scheduler.md` R94). -/
def liveFrame (c : Params) (r : Registry) : CommandWord := frameWord c r.cur (chanGet r.pwm r.cur)

/-- `cur <- NextChannel(cur, elig, en)` (`41_ir_scheduler.md` R90, R93). -/
def advanceChannel (elig : ChanMask) (s : State) : State :=
  { s with reg := { s.reg with cur := nextChannel s.reg.cur elig s.reg.en } }

/-- The current channel's frame is queued: `shreg`, `waiting <- 0`, `tstate <- Starting`
(`41_ir_scheduler.md` R94). -/
def queueFrame (s : State) : State :=
  { s with
    reg := { s.reg with waiting := false }
    ir := { s.ir with shreg := liveFrame s.cfg s.reg, tstate := .starting } }

/-- No channel to serve: `waiting <- 1` (`41_ir_scheduler.md` R94). -/
def stayIdle (s : State) : State := { s with reg := { s.reg with waiting := true } }

/-- The outcome of the selection (`41_ir_scheduler.md` R94). -/
def serveCurrent (s : State) : State :=
  if bitOf s.reg.en s.reg.cur = true then queueFrame s else stayIdle s

/-- `CountdownUpdate()` on the state (`41_ir_scheduler.md` R91). -/
def countDown (s : State) : State := { s with reg := countdownUpdate s.cfg s.reg }

/-- `SchedStep()` (`41_ir_scheduler.md` R90), with the guard of R92. -/
def schedStep (s : State) : State :=
  if s.ir.tstate = .stopped then serveCurrent (advanceChannel (eligible s.reg) (countDown s))
  else countDown s

/-- SCHED (`41_ir_scheduler.md` R90). -/
def execSched (s : State) : Host.Outcome State Fault Refusal := .next (schedStep s)

/-- FRAME: the command word of channel `c` and PWM byte `p` is put in the shift register
(`40_ir_frame_engine.md` R70; `41_ir_scheduler.md` R94; log 9). -/
def execFrame (c : Chan) (p : Byte) (s : State) : Host.Outcome State Fault Refusal :=
  .next { s with ir := { s.ir with shreg := frameWord s.cfg c p } }

end Sys2Proof.Machine
end

