-- ==== Sys2Proof/Machine/FrameTimer.lean ====
section
/-! DEFINITION. The handlers of the timer events: TA.* for CMPA, TB.* for CMPB
(`40_ir_frame_engine.md` R74 to R81). -/

namespace Sys2Proof.Machine

/-- TB.STARTING (`40_ir_frame_engine.md` R74). -/
def execTbStarting (s : State) : Host.Outcome State Fault Refusal :=
  .next { s with ir := beginFrame s.cfg s.ir }

/-- TA.STARTMARK (`40_ir_frame_engine.md` R75). -/
def execTaStartmark (s : State) : Host.Outcome State Fault Refusal :=
  .next { s with ir := endMark (edgeSymbol s.cfg) s.ir }

/-- TB.STARTMARK (`40_ir_frame_engine.md` R76). -/
def execTbStartmark (s : State) : Host.Outcome State Fault Refusal :=
  .next { s with
    ir := beginMark s.cfg { latchBit s.ir with bitpos := 15, tstate := .sendingBit } }

/-- TA.BIT (`40_ir_frame_engine.md` R77). -/
def execTaBit (s : State) : Host.Outcome State Fault Refusal :=
  .next { s with ir := endMark (bitSymbol s.cfg s.ir.bitval) s.ir }

/-- TB.BIT (`40_ir_frame_engine.md` R78). -/
def execTbBit (s : State) : Host.Outcome State Fault Refusal :=
  if 0 < s.ir.bitpos then
    .next { s with ir := beginMark s.cfg { latchBit s.ir with bitpos := s.ir.bitpos - 1 } }
  else
    .next { s with ir := beginMark s.cfg { s.ir with tstate := .sendingStopMark } }

/-- TA.STOPMARK (`40_ir_frame_engine.md` R79). -/
def execTaStopmark (s : State) : Host.Outcome State Fault Refusal :=
  .next { s with ir := endMark (edgeSymbol s.cfg) s.ir }

/-- The end of the stop symbol before the scheduler step (`40_ir_frame_engine.md` R80). -/
def endFrame (s : State) : State :=
  { s with
    reg := { s.reg with waiting := true }
    ir := { s.ir with
      tcnt := 0
      tstate := .stopped
      cmpb := ticks (trailing s.cfg s.ir.zeros.toNat) } }

/-- TB.STOPMARK (`40_ir_frame_engine.md` R80). -/
def execTbStopmark (s : State) : Host.Outcome State Fault Refusal :=
  .next (schedStep (endFrame s))

/-- The start of the next slot while stopped, before the scheduler step (`40_ir_frame_engine.md` R81). -/
def beginSlot (s : State) : State :=
  { s with ir := { s.ir with tcnt := 0, cmpb := ticks s.cfg.tFrame } }

/-- A frame queued by the step starts at once (`40_ir_frame_engine.md` R81). -/
def startIfQueued (s : State) : State :=
  if s.ir.tstate = .starting then { s with ir := beginFrame s.cfg s.ir } else s

/-- TB.STOPPED (`40_ir_frame_engine.md` R81). DESIGN CHOICE (log 26): at the end of a trailing gap whose
stop symbol selected no channel this is a second scheduler step in one slot; R81 and `95_test_vectors.md`
V214 say so, against "exactly one step" in R82 and `41_ir_scheduler.md` R97, both marked as derived from R81,
and in `90_conflicts.md` C4. -/
def execTbStopped (s : State) : Host.Outcome State Fault Refusal :=
  .next (startIfQueued (schedStep (beginSlot s)))

end Sys2Proof.Machine
end

