-- ==== Sys2Proof/Machine/Read.lean ====
section
/-! DEFINITION. The read multiplexer's rows: each loads the first bytes of `buf`
(`43_serial_registers.md` R131 to R138); RD.WO is refused (R139). ADDR.R adds what is its own (log 8). -/

namespace Sys2Proof.Machine

/-- RD.VERSION (`43_serial_registers.md` R131). -/
def execRdVersion (s : State) : Host.Outcome State Fault Refusal := .next (loadBuffer 0x00#8 s)

/-- RD.VENDOR (`43_serial_registers.md` R132). -/
def execRdVendor (s : State) : Host.Outcome State Fault Refusal := .next (loadBuffer 0x08#8 s)

/-- RD.PRODUCT (`43_serial_registers.md` R133). -/
def execRdProduct (s : State) : Host.Outcome State Fault Refusal := .next (loadBuffer 0x10#8 s)

/-- RD.STATUS (`43_serial_registers.md` R134). -/
def execRdStatus (s : State) : Host.Outcome State Fault Refusal := .next (loadBuffer 0x42#8 s)

/-- RD.PWM0 (`43_serial_registers.md` R135). -/
def execRdPwm0 (s : State) : Host.Outcome State Fault Refusal := .next (loadBuffer 0x50#8 s)

/-- RD.PWM1 (`43_serial_registers.md` R136). -/
def execRdPwm1 (s : State) : Host.Outcome State Fault Refusal := .next (loadBuffer 0x51#8 s)

/-- RD.PWM2 (`43_serial_registers.md` R137). -/
def execRdPwm2 (s : State) : Host.Outcome State Fault Refusal := .next (loadBuffer 0x52#8 s)

/-- RD.PWM3 (`43_serial_registers.md` R138). -/
def execRdPwm3 (s : State) : Host.Outcome State Fault Refusal := .next (loadBuffer 0x53#8 s)

/-- RD.WO (`43_serial_registers.md` R139). -/
def execRdWo (s : State) : Host.Outcome State Fault Refusal := .next (violation .readWriteOnly s)

end Sys2Proof.Machine
end

