-- ==== Sys2Proof/Machine/Select.lean ====
section
/-! DEFINITION. The register-select byte: the ten SEL operations and SEL.BAD (`42_serial_protocol.md`
R112). -/

namespace Sys2Proof.Machine

/-- SEL.VERSION (`42_serial_protocol.md` R112). -/
def execSelVersion (s : State) : Host.Outcome State Fault Refusal := .next (selectRegister 0x00#8 s)

/-- SEL.VENDOR (`42_serial_protocol.md` R112). -/
def execSelVendor (s : State) : Host.Outcome State Fault Refusal := .next (selectRegister 0x08#8 s)

/-- SEL.PRODUCT (`42_serial_protocol.md` R112). -/
def execSelProduct (s : State) : Host.Outcome State Fault Refusal := .next (selectRegister 0x10#8 s)

/-- SEL.STATUS (`42_serial_protocol.md` R112). -/
def execSelStatus (s : State) : Host.Outcome State Fault Refusal := .next (selectRegister 0x42#8 s)

/-- SEL.DISABLE (`42_serial_protocol.md` R112). -/
def execSelDisable (s : State) : Host.Outcome State Fault Refusal := .next (selectRegister 0x43#8 s)

/-- SEL.ENABLE (`42_serial_protocol.md` R112). -/
def execSelEnable (s : State) : Host.Outcome State Fault Refusal := .next (selectRegister 0x44#8 s)

/-- SEL.PWM0 (`42_serial_protocol.md` R112). -/
def execSelPwm0 (s : State) : Host.Outcome State Fault Refusal := .next (selectRegister 0x50#8 s)

/-- SEL.PWM1 (`42_serial_protocol.md` R112). -/
def execSelPwm1 (s : State) : Host.Outcome State Fault Refusal := .next (selectRegister 0x51#8 s)

/-- SEL.PWM2 (`42_serial_protocol.md` R112). -/
def execSelPwm2 (s : State) : Host.Outcome State Fault Refusal := .next (selectRegister 0x52#8 s)

/-- SEL.PWM3 (`42_serial_protocol.md` R112). -/
def execSelPwm3 (s : State) : Host.Outcome State Fault Refusal := .next (selectRegister 0x53#8 s)

/-- SEL.BAD (`42_serial_protocol.md` R112). -/
def execSelBad (_b : Byte) (s : State) : Host.Outcome State Fault Refusal :=
  .next (violation .badRegister s)

end Sys2Proof.Machine
end

