-- ==== Sys2Proof/Machine/Write.lean ====
section
/-! DEFINITION. The write data byte: the WR operations (`43_serial_registers.md` R141 to R148). -/

namespace Sys2Proof.Machine

/-- WR.STATUS (`43_serial_registers.md` R141). -/
def execWrStatus (d : Byte) (s : State) : Host.Outcome State Fault Refusal :=
  .next (writeRegister 0x42#8 d s)

/-- WR.DISABLE (`43_serial_registers.md` R142). -/
def execWrDisable (d : Byte) (s : State) : Host.Outcome State Fault Refusal :=
  .next (writeRegister 0x43#8 d s)

/-- WR.ENABLE (`43_serial_registers.md` R143). -/
def execWrEnable (d : Byte) (s : State) : Host.Outcome State Fault Refusal :=
  .next (writeRegister 0x44#8 d s)

/-- WR.PWM0 (`43_serial_registers.md` R144). -/
def execWrPwm0 (d : Byte) (s : State) : Host.Outcome State Fault Refusal :=
  .next (writeRegister 0x50#8 d s)

/-- WR.PWM1 (`43_serial_registers.md` R145). -/
def execWrPwm1 (d : Byte) (s : State) : Host.Outcome State Fault Refusal :=
  .next (writeRegister 0x51#8 d s)

/-- WR.PWM2 (`43_serial_registers.md` R146). -/
def execWrPwm2 (d : Byte) (s : State) : Host.Outcome State Fault Refusal :=
  .next (writeRegister 0x52#8 d s)

/-- WR.PWM3 (`43_serial_registers.md` R147). -/
def execWrPwm3 (d : Byte) (s : State) : Host.Outcome State Fault Refusal :=
  .next (writeRegister 0x53#8 d s)

/-- WR.RO (`43_serial_registers.md` R148). -/
def execWrRo (_d : Byte) (s : State) : Host.Outcome State Fault Refusal :=
  .next (violation .writeReadOnly s)

end Sys2Proof.Machine
end

