-- ==== Sys2Proof/Machine/Dispatch.lean ====
section
/-! DEFINITION. One arm per constructor of `Instr`, in the table's order. -/

namespace Sys2Proof.Machine

def exec (i : Instr) (s : State) : Host.Outcome State Fault Refusal :=
  match i with
  | .addrX addr dir => Sys2Proof.Machine.execAddrX addr dir s
  | .addrW => Sys2Proof.Machine.execAddrW s
  | .addrR => Sys2Proof.Machine.execAddrR s
  | .selVersion => Sys2Proof.Machine.execSelVersion s
  | .selVendor => Sys2Proof.Machine.execSelVendor s
  | .selProduct => Sys2Proof.Machine.execSelProduct s
  | .selStatus => Sys2Proof.Machine.execSelStatus s
  | .selDisable => Sys2Proof.Machine.execSelDisable s
  | .selEnable => Sys2Proof.Machine.execSelEnable s
  | .selPwm0 => Sys2Proof.Machine.execSelPwm0 s
  | .selPwm1 => Sys2Proof.Machine.execSelPwm1 s
  | .selPwm2 => Sys2Proof.Machine.execSelPwm2 s
  | .selPwm3 => Sys2Proof.Machine.execSelPwm3 s
  | .selBad b => Sys2Proof.Machine.execSelBad b s
  | .wrStatus d => Sys2Proof.Machine.execWrStatus d s
  | .wrDisable d => Sys2Proof.Machine.execWrDisable d s
  | .wrEnable d => Sys2Proof.Machine.execWrEnable d s
  | .wrPwm0 d => Sys2Proof.Machine.execWrPwm0 d s
  | .wrPwm1 d => Sys2Proof.Machine.execWrPwm1 d s
  | .wrPwm2 d => Sys2Proof.Machine.execWrPwm2 d s
  | .wrPwm3 d => Sys2Proof.Machine.execWrPwm3 d s
  | .wrRo d => Sys2Proof.Machine.execWrRo d s
  | .rdVersion => Sys2Proof.Machine.execRdVersion s
  | .rdVendor => Sys2Proof.Machine.execRdVendor s
  | .rdProduct => Sys2Proof.Machine.execRdProduct s
  | .rdStatus => Sys2Proof.Machine.execRdStatus s
  | .rdPwm0 => Sys2Proof.Machine.execRdPwm0 s
  | .rdPwm1 => Sys2Proof.Machine.execRdPwm1 s
  | .rdPwm2 => Sys2Proof.Machine.execRdPwm2 s
  | .rdPwm3 => Sys2Proof.Machine.execRdPwm3 s
  | .rdWo => Sys2Proof.Machine.execRdWo s
  | .hack => Sys2Proof.Machine.execHack s
  | .hnack => Sys2Proof.Machine.execHnack s
  | .sStart => Sys2Proof.Machine.execSStart s
  | .sStop => Sys2Proof.Machine.execSStop s
  | .tbStopped => Sys2Proof.Machine.execTbStopped s
  | .tbStarting => Sys2Proof.Machine.execTbStarting s
  | .taStartmark => Sys2Proof.Machine.execTaStartmark s
  | .tbStartmark => Sys2Proof.Machine.execTbStartmark s
  | .taBit => Sys2Proof.Machine.execTaBit s
  | .tbBit => Sys2Proof.Machine.execTbBit s
  | .taStopmark => Sys2Proof.Machine.execTaStopmark s
  | .tbStopmark => Sys2Proof.Machine.execTbStopmark s
  | .sched => Sys2Proof.Machine.execSched s
  | .frame c p => Sys2Proof.Machine.execFrame c p s

end Sys2Proof.Machine
end

