-- ==== Sys2Proof/Machine/Deliver.lean ====
section
/-! DEFINITION. Delivery of one event to the block (`00_scope.md` R9, `60_exceptions.md` R166): the
decoder names the operation in the present state and `exec` runs it, as one atomic transition
(`20_memory.md` R40). -/

namespace Sys2Proof.Machine

/-- An event that is no row of the table in this state: bytes are ignored with the answer NONE
(`42_serial_protocol.md` R108, R117); a timer event that the timer cannot raise is refused
(`40_ir_frame_engine.md` R84; log 6). -/
def rejectEvent (r : Rejection) (s : State) : Host.Outcome State Fault Refusal :=
  match r with
  | .unarmedByte => .next (s.answer .none)
  | .byteWhileStreaming => .next (s.answer .none)
  | .cmpaOutsideMark => .refused .timerEventNotRaised
  | .cmpbDuringMark => .refused .timerEventNotRaised
  | .unmappedRead => .refused .codeIsNoEvent
  | .notACommandWord => .refused .codeIsNoEvent

/-- One event. -/
def deliver (e : Event) (s : State) : Host.Outcome State Fault Refusal :=
  match decode s.cfg s.context (.event e) with
  | .instr i => exec i s
  | .rejected r => rejectEvent r s

end Sys2Proof.Machine
end

