-- ==== Sys2Proof/Machine/Timer.lean ====
section
/-! DEFINITION. The timer at one rising edge of `clk` (`40_ir_frame_engine.md` R72). -/

namespace Sys2Proof.Machine

/-- `tcnt <- n`. -/
def setTcnt (n : Count) (s : State) : State := { s with ir := { s.ir with tcnt := n } }

/-- CMPA raised by the timer; Stopped and Starting have no handler for it (`40_ir_frame_engine.md` R84). -/
def compareA (s : State) : Host.Outcome State Fault Refusal :=
  match decodeCmpA s.context with
  | .instr i => exec i s
  | .rejected _ => .fault .cmpaWithoutHandler

/-- The timer's part of one clk edge (`40_ir_frame_engine.md` R72). -/
def timerEdge (p : Ports) (s : State) : Host.Outcome State Fault Refusal :=
  if p.tick then
    if s.ir.carrierOn = true ∧ s.ir.tcnt + 1 = s.ir.cmpa then compareA (setTcnt (s.ir.tcnt + 1) s)
    else if s.ir.carrierOn = false ∧ s.ir.tcnt + 1 = s.ir.cmpb then deliver .cmpB s
    else .next (setTcnt (s.ir.tcnt + 1) s)
  else .next s

end Sys2Proof.Machine
end

