-- ==== Sys2Proof/Machine/Wire.lean ====
section
/-! DEFINITION. The serial bit layer at one rising edge of `clk` (`42_serial_protocol.md` R100 to R103;
log 11). -/

namespace Sys2Proof.Machine

/-- What the two lines did since the previous clk edge (`42_serial_protocol.md` R100). -/
inductive LineChange where
  | startCondition
  | stopCondition
  | risingEdge
  | fallingEdge
  | quiet
deriving DecidableEq, Repr

/-- Edge and bus-condition detection (`42_serial_protocol.md` R100). -/
def lineChange (b : BitLayer) (p : Ports) : LineChange :=
  if b.sclQ && p.scl && b.sdaQ && !p.sdaIn then .startCondition
  else if b.sclQ && p.scl && !b.sdaQ && p.sdaIn then .stopCondition
  else if !b.sclQ && p.scl then .risingEdge
  else if b.sclQ && !p.scl then .fallingEdge
  else .quiet

/-- `scl_q <- scl`, `sda_q <- sda_in` (`42_serial_protocol.md` R100). -/
def sampleLines (p : Ports) (s : State) : State :=
  { s with bus := { s.bus with sclQ := p.scl, sdaQ := p.sdaIn } }

/-- What a bus condition does in the bit layer (`42_serial_protocol.md` R101). -/
def dropByte (s : State) : State :=
  { s with bus := { s.bus with bitcnt := 0, dirtx := false, ackres := .none, sdaOe := false } }

/-- `sreg[6:0] :: sda_in` (`42_serial_protocol.md` R102). -/
def shiftIn (sreg : Byte) (sda : Bool) : Byte := sreg.extractLsb' 0 7 ++ BitVec.ofBool sda

/-- One of the eight data clocks, before the received byte is handed on (`42_serial_protocol.md` R102). -/
def clockBit (sda : Bool) (s : State) : State :=
  { s with
    bus := { s.bus with
      sreg := if s.bus.dirtx then s.bus.sreg else shiftIn s.bus.sreg sda
      bitcnt := s.bus.bitcnt + 1 } }

/-- The host's acknowledgment bit: line low is ACK (`30_encoding.md` R55). -/
def hostAckOf (sda : Bool) : HostAck := if sda then .nack else .ack

/-- `bitcnt <- 9` (`42_serial_protocol.md` R102). -/
def endNinthClock (s : State) : State := { s with bus := { s.bus with bitcnt := 9 } }

/-- A rising clock edge (`42_serial_protocol.md` R102). -/
def risingClock (sda : Bool) (s : State) : Host.Outcome State Fault Refusal :=
  if s.bus.bitcnt.toNat ≤ 7 then
    if s.bus.bitcnt.toNat = 7 ∧ s.bus.dirtx = false then
      deliver (.rxByte (clockBit sda s).bus.sreg) (clockBit sda s)
    else .next (clockBit sda s)
  else if s.bus.bitcnt.toNat = 8 then
    if s.bus.dirtx then
      andThen (deliver (.hack (hostAckOf sda)) s) fun t => .next (endNinthClock t)
    else .next (endNinthClock s)
  else .next s

/-- The bit of `sreg` for the data slot that begins: `sreg[7 - bitcnt]` (`42_serial_protocol.md` R103). -/
def slotBit (b : BitLayer) : Bool := b.sreg.getLsbD (7 - b.bitcnt.toNat)

/-- The next byte frame begins (`42_serial_protocol.md` R103). -/
def beginByteFrame (s : State) : State :=
  if s.ser.pstate = .streamingReadData then
    { s with
      bus := { s.bus with
        bitcnt := 0
        ackres := .none
        dirtx := true
        sreg := s.ser.buf[s.ser.cursor.toNat]'(s.ser.cursor.isLt)
        sdaOe := !(s.ser.buf[s.ser.cursor.toNat]'(s.ser.cursor.isLt)).getLsbD 7 } }
  else
    { s with bus := { s.bus with bitcnt := 0, ackres := .none, dirtx := false, sdaOe := false } }

/-- A falling clock edge (`42_serial_protocol.md` R103). -/
def fallingClock (s : State) : State :=
  if s.bus.bitcnt.toNat ≤ 7 then
    { s with bus := { s.bus with sdaOe := s.bus.dirtx && !slotBit s.bus } }
  else if s.bus.bitcnt.toNat = 8 then
    { s with bus := { s.bus with sdaOe := !s.bus.dirtx && decide (s.bus.ackres = .ack) } }
  else beginByteFrame s

/-- The bit layer's part of one clk edge (`42_serial_protocol.md` R100 to R103). -/
def serialEdge (p : Ports) (s : State) : Host.Outcome State Fault Refusal :=
  match lineChange s.bus p with
  | .startCondition => deliver .start (dropByte (sampleLines p s))
  | .stopCondition => deliver .stop (dropByte (sampleLines p s))
  | .risingEdge => risingClock p.sdaIn (sampleLines p s)
  | .fallingEdge => .next (fallingClock (sampleLines p s))
  | .quiet => .next (sampleLines p s)

end Sys2Proof.Machine
end

