-- ==== Sys2Proof/Machine/Clock.lean ====
section
/-! DEFINITION. One rising edge of `clk`: reset (`70_reset_and_hazards.md` R180), the timer and the bit
layer in the order `SIMUL_ORDER` (`60_exceptions.md` R168); and one input of the queue (log 1). -/

namespace Sys2Proof.Machine

/-- Reset: every state element at its reset value; configuration and queue are no state elements
(`70_reset_and_hazards.md` R180; `10_state.md` R28). -/
def resetState (s : State) : State :=
  { State.resetWith s.cfg with inputs := s.inputs, edges := s.edges }

/-- One rising edge of `clk` with the port levels `p`. -/
def clkEdge (p : Ports) (s : State) : Host.Outcome State Fault Refusal :=
  if p.rstN then
    match s.cfg.simulOrder with
    | .irFirst => andThen (timerEdge p s) (serialEdge p)
    | .serialFirst => andThen (serialEdge p s) (timerEdge p)
  else .next (resetState s)

/-- One input. -/
def runInput (i : Input) (s : State) : Host.Outcome State Fault Refusal :=
  match i with
  | .clk p => clkEdge p s
  | .asyncReset => .next (resetState s)
  | .event e => deliver e s

end Sys2Proof.Machine
end

