-- ==== Sys2Proof/Machine/Fetch.lean ====
section
/-! DEFINITION. The next input (log 1, log 2), and how a word of the opcode table is put where the next
step takes it (log 4). -/

namespace Sys2Proof.Machine

/-- The next input and the state with it taken: the head of the queue, or, when the queue is empty, a clk
edge with the levels of the free schedule. -/
def takeInput (s : State) : Input × State :=
  match s.inputs with
  | [] => (.clk (Config.portsAt s.edges), { s with edges := s.edges + 1 })
  | i :: rest => (i, { s with inputs := rest })

/-- An event at the head of the queue. -/
def withEvent (e : Event) (s : State) : State := { s with inputs := .event e :: s.inputs }

/-- The serial engine waits for a register-select byte, which is `b` (`30_encoding.md` R52;
`42_serial_protocol.md` R119 (a)). -/
def withSelectByte (b : Byte) (s : State) : State :=
  withEvent (.rxByte b)
    { s with
      ser := { s.ser with pstate := .awaitingRegisterSelect, sel := s.cfg.sentinel, armed := false } }

/-- The block has sent a byte of the status register and the host answers `a` (`30_encoding.md` R55). -/
def withAckBit (a : HostAck) (s : State) : State :=
  withEvent (.hack a)
    { s with
      ser := { s.ser with pstate := .streamingReadData, sel := 0x42#8, cursor := 0, armed := false } }

/-- A slot boundary in Stopped at which the step can only build the command word of channel `c` with PWM
byte `p` (`41_ir_scheduler.md` R94). -/
def withQueuedFrame (c : Chan) (p : Byte) (s : State) : State :=
  withEvent .cmpB
    { s with
      reg := { s.reg with en := 1#4 <<< c.toNat, pwm := chanSet s.reg.pwm c p, waiting := true }
      ir := { s.ir with tstate := .stopped, carrierOn := false } }

/-- The state in which the next step runs the instruction of a table word (log 4). -/
def withCode (code : Code) (s : State) : State :=
  match code with
  | .event (.rxByte b) => withSelectByte b s
  | .event (.hack a) => withAckBit a s
  | .irWord w => withQueuedFrame (wordChannel w) (wordData w) s
  | _ => s

end Sys2Proof.Machine
end

