-- ==== Sys2Proof/Machine/Step.lean ====
section
/-! DEFINITION. One step: the next input is taken and run. The host's fetch word (log 4). -/

namespace Sys2Proof.Machine

/-- One step of the machine: one input. -/
def step (s : State) : Host.Outcome State Fault Refusal :=
  runInput (takeInput s).1 (takeInput s).2

/-- The state with a table word placed where the next step takes it (log 4). -/
def State.withFetchWord (s : State) (nbits w : Nat) : State :=
  match tableCode nbits w with
  | some code => withCode code s
  | none => s

end Sys2Proof.Machine
end

