-- ==== Sys2Proof/Machine/Output.lean ====
section
/-! DEFINITION. The output ports as functions of the state (`10_state.md` R10; `40_ir_frame_engine.md`
R85; `30_encoding.md` R55). -/

namespace Sys2Proof.Machine

/-- Port `ir_env` (`40_ir_frame_engine.md` R85). -/
def irEnv (s : State) : Bool := s.ir.carrierOn

/-- The carrier square wave at the fraction `num / den` of a tick period: high for the first
CARRIER_DUTY of it (`40_ir_frame_engine.md` R85; log 15). -/
def carrierHigh (c : Params) (num den : Nat) : Bool := decide (num * c.dutyDen < c.dutyNum * den)

/-- Port `ir_out` at the fraction `num / den` of a tick period (`40_ir_frame_engine.md` R85). -/
def irOut (s : State) (num den : Nat) : Bool := irEnv s && carrierHigh s.cfg num den

/-- Port `sda_oe` (`10_state.md` R10). -/
def sdaOe (s : State) : Bool := s.bus.sdaOe

/-- The level of the data line when the other drivers leave it at `level`: the block only pulls it low
(`10_state.md` R10). -/
def dataLine (s : State) (level : Bool) : Bool := level && !sdaOe s

/-- The byte that the block sends next while streaming: `buf[cursor]` (`42_serial_protocol.md` R114). -/
def readData (s : State) : Byte := s.ser.buf[s.ser.cursor.toNat]'(s.ser.cursor.isLt)

end Sys2Proof.Machine
end

