-- ==== Sys2Proof/Safety.lean ====
section
/-! DEFINITION. The terms of the claims: frames (what an operation leaves unchanged), runs of inputs, the
invariants of the spec, the time within a slot, the frame in flight. -/

namespace Sys2Proof.Machine

/-! ## Frames -/

/-- Configuration, input queue and free schedule are unchanged. -/
def EnvKept (s t : State) : Prop := t.cfg = s.cfg ∧ t.inputs = s.inputs ∧ t.edges = s.edges

/-- Only the serial engine and the bit layer may differ. -/
def OnlySerial (s t : State) : Prop := t.reg = s.reg ∧ t.ir = s.ir ∧ EnvKept s t

/-- Only the registry and the IR engine may differ. -/
def OnlyInfrared (s t : State) : Prop := t.ser = s.ser ∧ t.bus = s.bus ∧ EnvKept s t

/-- Only the IR engine's private state may differ. -/
def OnlyIrEngine (s t : State) : Prop := t.reg = s.reg ∧ OnlyInfrared s t

/-- The bit layer is unchanged but for the answer, which is `a`. -/
def Answers (a : Answer) (s t : State) : Prop := t.bus = { s.bus with ackres := a }

/-- The serial engine is back in its known state; `buf` and `cursor` are kept
(`60_exceptions.md` R161, R162). -/
def Recovered (s t : State) : Prop :=
  t.ser.sel = s.cfg.sentinel ∧ t.ser.pstate = .awaitingAddress ∧ t.ser.armed = false ∧
    t.ser.buf = s.ser.buf ∧ t.ser.cursor = s.ser.cursor

/-- Reading register `b` of the register map gives the same bytes (`43_serial_registers.md` R130). -/
def RegisterKept (b : Byte) (s t : State) : Prop :=
  memRead t.cfg t.reg b = memRead s.cfg s.reg b

/-- What a scheduler step leaves, from the registry `r` and the shift register `w` before it, when the
selection runs (`41_ir_scheduler.md` R90, R91, R94; the channel chosen is `nextChannel`, R93). `queued` is
the state the frame engine is in if a channel was selected. -/
def Scheduled (r : Registry) (w : CommandWord) (queued : TState) (t : State) : Prop :=
  (∀ k : Chan, chanGet t.reg.countdown k =
    if chanGet r.countdown k = 1 then chanGet t.cfg.period k else chanGet r.countdown k - 1) ∧
  t.reg.en = r.en ∧ t.reg.pwm = r.pwm ∧ t.reg.cur = nextChannel r.cur (eligible r) r.en ∧
  (if bitOf r.en t.reg.cur then
    t.reg.waiting = false ∧ t.ir.tstate = queued ∧
      t.ir.shreg = frameWord t.cfg t.reg.cur (chanGet r.pwm t.reg.cur)
   else t.reg.waiting = true ∧ t.ir.tstate = .stopped ∧ t.ir.shreg = w)

/-! ## Runs -/

/-- Inputs run one after another. -/
def runInputs : List Input → State → Host.Outcome State Fault Refusal
  | [], s => .next s
  | i :: rest, s => andThen (runInput i s) (runInputs rest)

/-- Events delivered one after another. -/
def runEvents (es : List Event) (s : State) : Host.Outcome State Fault Refusal :=
  runInputs (es.map .event) s

/-- Clk edges one after another. -/
def runPorts (ps : List Ports) (s : State) : Host.Outcome State Fault Refusal :=
  runInputs (ps.map .clk) s

/-- `n` operations SCHED one after another, the frame engine in Stopped before each
(`41_ir_scheduler.md` R90, R92). -/
def schedRun : Nat → State → Host.Outcome State Fault Refusal
  | 0, s => .next s
  | n + 1, s => andThen (exec .sched { s with ir := { s.ir with tstate := .stopped } }) (schedRun n)

/-- How many of the clk edges carry a timer tick. -/
def tickCount (ps : List Ports) : Nat := (ps.filter (·.tick)).length

/-- The scheduler's countdown update repeated. -/
def countdownSteps (c : Params) : Nat → Registry → Registry
  | 0, r => r
  | n + 1, r => countdownSteps c n (countdownUpdate c r)

/-- The bus clock low, the data line at `b`; no tick, no reset (`42_serial_protocol.md` R103). -/
def clockLow (b : Bool) : Ports := { rstN := true, tick := false, scl := false, sdaIn := b }

/-- The bus clock high, the data line at `b`; no tick, no reset (`42_serial_protocol.md` R102). -/
def clockHigh (b : Bool) : Ports := { rstN := true, tick := false, scl := true, sdaIn := b }

/-- One data bit on the wires: the clock low, then high, with the data line at the bit
(`42_serial_protocol.md` R102). -/
def bitPorts (b : Bool) : List Ports := [clockLow b, clockHigh b]

/-- The eight data bits of a byte on the wires, most significant first (`20_memory.md` R36). -/
def bytePorts (b : Byte) : List Ports :=
  ([7, 6, 5, 4, 3, 2, 1, 0] : List Nat).flatMap fun i => bitPorts (b.getLsbD i)

/-- Clock low, then `n` times clock high and low again, the data line at the levels given. The block is
sending (`42_serial_protocol.md` R103). -/
def sendPorts (first : Bool) : List (Bool × Bool) → List Ports
  | [] => [clockLow first]
  | (up, down) :: rest => clockLow first :: clockHigh up :: sendPorts down rest

/-! ## Invariants -/

/-- The serial engine's invariants (`42_serial_protocol.md` R119 (a) to (e)). -/
def ProtocolInv (s : State) : Prop :=
  (s.ser.pstate = .awaitingRegisterSelect → s.ser.sel = s.cfg.sentinel) ∧
  (s.ser.pstate = .awaitingWriteData → s.ser.sel ∈ whitelist) ∧
  (s.ser.pstate = .streamingReadData →
    readable s.ser.sel = true ∧ s.ser.cursor.toNat < width s.ser.sel) ∧
  (s.ser.armed = true → s.ser.pstate = .awaitingAddress) ∧
  (s.ser.sel = s.cfg.sentinel ∨ s.ser.sel ∈ whitelist)

/-- `1 <= countdown[k] <= PERIOD[k]` (`10_state.md` R13). -/
def CountdownInv (s : State) : Prop :=
  ∀ k : Chan, 1 ≤ (chanGet s.reg.countdown k).toNat ∧
    (chanGet s.reg.countdown k).toNat ≤ (chanGet s.cfg.period k).toNat

/-- `waiting = 1` exactly when `tstate = Stopped` (`10_state.md` R15). -/
def WaitingInv (s : State) : Prop := s.reg.waiting = true ↔ s.ir.tstate = .stopped

/-- The number of 0 bits latched fits the position in the frame (`10_state.md` R18: `bitpos` is the bit
now being sent, `zeros` counts the 0 bits latched so far, it among them). -/
def ZerosInv (e : IrEngine) : Prop :=
  e.zeros.toNat ≤ 16 ∧
  (e.tstate = .sendingStartMark → e.zeros.toNat = 0) ∧
  (e.tstate = .sendingBit →
    if e.bitval then e.zeros.toNat + e.bitpos.toNat ≤ 15
    else 1 ≤ e.zeros.toNat ∧ e.zeros.toNat + e.bitpos.toNat ≤ 16)

/-- What the boundary compare holds in a gap (`40_ir_frame_engine.md` R75, R77, R79, R80, R81). -/
def GapInv (c : Params) (e : IrEngine) : Prop :=
  match e.tstate with
  | .stopped => e.cmpb.toNat ≤ c.tFrame
  | .starting => e.cmpb.toNat ≤ c.tFrame
  | .sendingStartMark => e.cmpb.toNat = edgeSymbol c
  | .sendingBit => e.cmpb.toNat = bitSymbol c e.bitval
  | .sendingStopMark => e.cmpb.toNat = edgeSymbol c

/-- The timer's invariant: no mark while stopped or starting (`40_ir_frame_engine.md` R84), and `tcnt`
below the compare value that is armed (R72: "`tcnt` never passes a compare value unmatched"). -/
def TimerInv (s : State) : Prop :=
  ZerosInv s.ir ∧
  (s.ir.tstate = .stopped ∨ s.ir.tstate = .starting → s.ir.carrierOn = false) ∧
  (if s.ir.carrierOn then s.ir.cmpa.toNat = s.cfg.tMark ∧ s.ir.tcnt.toNat < s.ir.cmpa.toNat
   else GapInv s.cfg s.ir ∧ s.ir.tcnt.toNat < s.ir.cmpb.toNat)

/-- Ticks since the start of the slot (`40_ir_frame_engine.md` R82): the symbols sent so far, or the part
of the trailing gap or idle slot, and the count in the present one. -/
def slotTime (c : Params) (e : IrEngine) : Nat :=
  match e.tstate with
  | .stopped => c.tFrame - e.cmpb.toNat + e.tcnt.toNat
  | .starting => c.tFrame - e.cmpb.toNat + e.tcnt.toNat
  | .sendingStartMark => e.tcnt.toNat
  | .sendingBit =>
    let z := if e.bitval then e.zeros.toNat else e.zeros.toNat - 1
    edgeSymbol c + z * bitSymbol c false + (15 - e.bitpos.toNat - z) * bitSymbol c true
      + e.tcnt.toNat
  | .sendingStopMark =>
    edgeSymbol c + e.zeros.toNat * bitSymbol c false
      + (16 - e.zeros.toNat) * bitSymbol c true + e.tcnt.toNat

/-- How many of the top `n` bits of a word are 0. -/
def topZeros : Nat → CommandWord → Nat
  | 0, _ => 0
  | n + 1, w => (if w.getLsbD 15 then 0 else 1) + topZeros n (w <<< 1)

/-- Between 4 and 12, the range of `40_ir_frame_engine.md` R83. -/
def InZeroRange (n : Nat) : Prop := 4 ≤ n ∧ n ≤ 12

/-- The 0 bits sent and still to send of the frame queued or in flight are between 4 and 12
(`40_ir_frame_engine.md` R83). -/
def ZeroCountInv (s : State) : Prop :=
  ZerosInv s.ir ∧
  match s.ir.tstate with
  | .stopped => True
  | .starting => InZeroRange (topZeros 16 s.ir.shreg)
  | .sendingStartMark => InZeroRange (topZeros 16 s.ir.shreg)
  | .sendingBit => InZeroRange (s.ir.zeros.toNat + topZeros s.ir.bitpos.toNat s.ir.shreg)
  | .sendingStopMark => InZeroRange s.ir.zeros.toNat

/-- The frame queued or in flight sends the word `w`, bit 15 first (`30_encoding.md` R59): what is left in
the shift register and the bit now being sent are `w`'s. -/
def Sending (w : CommandWord) (e : IrEngine) : Prop :=
  match e.tstate with
  | .stopped => False
  | .starting => e.shreg = w
  | .sendingStartMark => e.shreg = w
  | .sendingBit =>
    e.shreg = w <<< (16 - e.bitpos.toNat) ∧ e.bitval = w.getLsbD e.bitpos.toNat
  | .sendingStopMark => True

/-- A serial event (`60_exceptions.md` R166). -/
def SerialEvent (e : Event) : Prop := e ≠ .cmpA ∧ e ≠ .cmpB

end Sys2Proof.Machine
end

