-- ==== Sys2Proof/Certificates/Slice0/Obligations.lean ====
section
/-! DEFINITION. The statements for the provers. Each docstring names the rule it formalises; a clause
that is the model's own choice names its log entry. -/

open Sys2Proof Sys2Proof.Machine

/-! ## Decoding -/

/-- In the context of its row, the code of a well-formed instruction decodes to it (R51 to R58, R66;
bit places of the address byte: log 11). -/
def Obligations.DecodeEncodeRoundTrip : Prop :=
  ∀ (c : Params) (x : Context) (i : Instr),
    i.wellFormed c = true → i.inContext x = true → decode c x (encode c i) = .instr i

/-- Whatever decodes is well-formed, stands in its row's context, and is what the encoder gives back, but
for RD.WO's second address and the fields of a command word that FRAME makes itself (log 9). -/
def Obligations.DecodedRowsAreExact : Prop :=
  ∀ (c : Params) (x : Context) (code : Code) (i : Instr),
    decode c x code = .instr i →
      i.wellFormed c = true ∧ i.inContext x = true ∧
      (encode c i = code ∨ (i = .rdWo ∧ code = .read 0x44#8) ∨
        ∃ w : CommandWord, code = .irWord w ∧
          i = .frame (w.extractLsb' 8 2) ((w.extractLsb' 4 4).zeroExtend 8))

/-- Words written out from R51, R52, R53, R55 and R58 decode to their rows (the example address 0x01 and
word 0x417D of `95_test_vectors.md`). The model's choices in it, no rule of the spec: that a bare byte is
read in AwaitingRegisterSelect and 16 bits as a command word (log 4), that a command word decodes at all, and
by its channel and data nibble (log 9). The places of address and direction in the address bytes and the
level of the acknowledgment bit are presumed conventions (log 11). -/
def Obligations.SampleWordsDecode : Prop :=
  decodeTableWord 8 0b00001000 = some .selVendor ∧
  decodeTableWord 8 0b01010001 = some .selPwm1 ∧
  decodeTableWord 8 0b01000001 = some (.selBad 0x41#8) ∧
  decodeTableWord 16 0b0100000101111101 = some (.frame 1 7) ∧
  ∀ (c : Params) (x : Context), c.deviceAddress = 0b0000001 →
    (x.pstate = .awaitingAddress → x.armed = true →
      decode c x (.event (.rxByte 0b00000010)) = .instr .addrW ∧
      decode c x (.event (.rxByte 0b00000011)) = .instr .addrR ∧
      decode c x (.event (.rxByte 0b00010000)) = .instr (.addrX 0b0001000 false)) ∧
    (x.pstate = .awaitingWriteData → x.sel = 0x43#8 →
      decode c x (.event (.rxByte 0b00000110)) = .instr (.wrDisable 0x06#8)) ∧
    decode c x (.event (.hack .nack)) = .instr .hnack

/-- A step whose next input is an event that decodes to an instruction runs `exec` of it; only the input
is taken (R9, R40; the input queue is the model's choice: log 1). -/
def Obligations.StepRunsDecodedEvent : Prop :=
  ∀ (s : State) (e : Event) (rest : List Input) (i : Instr),
    s.inputs = .event e :: rest → decode s.cfg s.context (.event e) = .instr i →
      step s = exec i { s with inputs := rest }

/-- A select byte placed by `withFetchWord` is the instruction that `decodeTableWord` reads, run by the
next step in AwaitingRegisterSelect (the model's choice of context: log 4). -/
def Obligations.StepRunsFetchWord : Prop :=
  ∀ (s : State) (b : Byte) (i : Instr), decodeTableWord 8 b.toNat = some i →
    step (s.withFetchWord 8 b.toNat) =
      exec i { s with ser := { s.ser with
        pstate := .awaitingRegisterSelect, sel := s.cfg.sentinel, armed := false } }

/-- The timer at a tick: the handler of CMPA with `tcnt` advanced, the handler of CMPB, or only the count
(R72); without a tick nothing. -/
def Obligations.TimerEdgeRunsHandlers : Prop :=
  ∀ (p : Ports) (s : State),
    (p.tick = false → timerEdge p s = .next s) ∧
    (p.tick = true → s.ir.carrierOn = true → s.ir.tcnt + 1 = s.ir.cmpa →
      ∀ i, decode s.cfg s.context (.event .cmpA) = .instr i →
        timerEdge p s = exec i { s with ir := { s.ir with tcnt := s.ir.tcnt + 1 } }) ∧
    (p.tick = true → s.ir.carrierOn = false → s.ir.tcnt + 1 = s.ir.cmpb →
      ∀ i, decode s.cfg s.context (.event .cmpB) = .instr i → timerEdge p s = exec i s) ∧
    (p.tick = true → (s.ir.carrierOn = true → s.ir.tcnt + 1 ≠ s.ir.cmpa) →
      (s.ir.carrierOn = false → s.ir.tcnt + 1 ≠ s.ir.cmpb) →
      timerEdge p s = .next { s with ir := { s.ir with tcnt := s.ir.tcnt + 1 } })

/-- The bit layer at a bus condition (R100, R101): the partial byte is dropped, the line released, and the
handler of S.START or S.STOP run (line conventions: log 11). -/
def Obligations.BusConditionsRunHandlers : Prop :=
  ∀ (p : Ports) (s : State), s.bus.sclQ = true → p.scl = true →
    (s.bus.sdaQ = true → p.sdaIn = false →
      serialEdge p s = exec .sStart
        { s with bus := { s.bus with
          bitcnt := 0, dirtx := false, ackres := .none, sdaOe := false, sclQ := true, sdaQ := false } }) ∧
    (s.bus.sdaQ = false → p.sdaIn = true →
      serialEdge p s = exec .sStop
        { s with bus := { s.bus with
          bitcnt := 0, dirtx := false, ackres := .none, sdaOe := false, sclQ := true, sdaQ := true } })

/-- One clk edge: reset wins; otherwise the timer and the bit layer, in the order SIMUL_ORDER (R168,
R180). Reset asserted between two edges acts at once (R180; an input of its own is the model's choice:
log 14; `inputs` and `edges`, the model's own fields, are kept: log 13). -/
def Obligations.ClkEdgeOrder : Prop :=
  ∀ (p : Ports) (s t u : State),
    runInput .asyncReset s =
      .next { State.resetWith s.cfg with inputs := s.inputs, edges := s.edges } ∧
    (p.rstN = false → clkEdge p s =
      .next { State.resetWith s.cfg with inputs := s.inputs, edges := s.edges }) ∧
    (p.rstN = true → s.cfg.simulOrder = .irFirst → timerEdge p s = .next t → serialEdge p t = .next u →
      clkEdge p s = .next u) ∧
    (p.rstN = true → s.cfg.simulOrder = .serialFirst → serialEdge p s = .next t →
      timerEdge p t = .next u → clkEdge p s = .next u)

/-! ## The serial operations -/

/-- ADDR.X, SEL.BAD, WR.RO and RD.WO, whose effect is the violation: NACK, the serial engine back in its
known state, the registry and everything else unchanged (R109, R112, R148, R139, R161). -/
def Obligations.RefusedRowsRecover : Prop :=
  ∀ (addr : BitVec 7) (dir : Bool) (b : Byte), ∀ i ∈ ([.addrX addr dir, .selBad b, .wrRo b, .rdWo] : List Instr),
    ∀ s : State, ∃ t, exec i s = .next t ∧ Recovered s t ∧ Answers .nack s t ∧ OnlySerial s t

/-- ADDR.W: ACK; data if a register is selected, a register select otherwise (R111; `armed` by R107). -/
def Obligations.AddrWChoosesPhase : Prop :=
  ∀ s : State, ∃ t, exec .addrW s = .next t ∧
    t.ser = { s.ser with
      pstate := if s.ser.sel = s.cfg.sentinel then .awaitingRegisterSelect else .awaitingWriteData
      armed := false } ∧
    Answers .ack s t ∧ OnlySerial s t

/-- ADDR.R with a readable register selected: ACK, the buffer's first bytes loaded from it, streaming from
its first byte (R110; `armed` by R107). -/
def Obligations.AddrRLoadsBuffer : Prop :=
  ∀ s : State, s.ser.sel ≠ s.cfg.sentinel → readable s.ser.sel = true →
    ∃ t, exec .addrR s = .next t ∧
      (memRead s.cfg s.reg s.ser.sel).length = width s.ser.sel ∧
      (∀ i : Fin 8, t.ser.buf[i] =
        if h : i.val < (memRead s.cfg s.reg s.ser.sel).length
          then (memRead s.cfg s.reg s.ser.sel)[i.val] else s.ser.buf[i]) ∧
      t.ser.cursor = 0 ∧ t.ser.pstate = .streamingReadData ∧ t.ser.armed = false ∧
      t.ser.sel = s.ser.sel ∧ Answers .ack s t ∧ OnlySerial s t

/-- ADDR.R with nothing selected or a write-only register selected is refused (R110, R139, R161). -/
def Obligations.AddrRIsRefused : Prop :=
  ∀ s : State, s.ser.sel = s.cfg.sentinel ∨ readable s.ser.sel = false →
    ∃ t, exec .addrR s = .next t ∧ Recovered s t ∧ Answers .nack s t ∧ OnlySerial s t

/-- ADDR.R runs the read multiplexer's row of the selected register: its load, then the entry to
streaming and the ACK; RD.WO for the two write-only registers (R110, R130, R139; the split is the model's reading:
log 8). -/
def Obligations.AddrRRunsReadRow : Prop :=
  ∀ s : State, s.cfg.SentinelValid → s.ser.sel ∈ whitelist →
    ∃ i u, decodeRead s.ser.sel = .instr i ∧
      exec i { s with ser := { s.ser with armed := false } } = .next u ∧
      (readable s.ser.sel = true → exec .addrR s = .next
        { u with
          ser := { u.ser with cursor := 0, pstate := .streamingReadData }
          bus := { u.bus with ackres := .ack } }) ∧
      (readable s.ser.sel = false → i = .rdWo ∧ exec .addrR s = .next u)

/-- The ten select operations: the register's address is stored, data is awaited, ACK (R112, R52). -/
def Obligations.SelectStoresAddress : Prop :=
  ∀ q ∈ ([(.selVersion, 0x00#8), (.selVendor, 0x08#8), (.selProduct, 0x10#8), (.selStatus, 0x42#8),
      (.selDisable, 0x43#8), (.selEnable, 0x44#8), (.selPwm0, 0x50#8), (.selPwm1, 0x51#8),
      (.selPwm2, 0x52#8), (.selPwm3, 0x53#8)] : List (Instr × Byte)),
    ∀ s : State, ∃ t, exec q.1 s = .next t ∧
      t.ser = { s.ser with sel := q.2, pstate := .awaitingWriteData } ∧
      Answers .ack s t ∧ OnlySerial s t

/-- WR.STATUS: all four enable flags are replaced by `d[3:0]`; every other register of the map but the
status byte reads as before; the selection is cleared, ACK (R141, R113). -/
def Obligations.WrStatusReplacesEnables : Prop :=
  ∀ (d : Byte) (s : State), ∃ t, exec (.wrStatus d) s = .next t ∧
    (∀ k : Chan, bitOf t.reg.en k = d.getLsbD k.toNat) ∧ t.reg = { s.reg with en := t.reg.en } ∧
    (∀ b : Byte, b ≠ 0x42#8 → RegisterKept b s t) ∧
    Recovered s t ∧ Answers .ack s t ∧ t.ir = s.ir ∧ EnvKept s t

/-- WR.DISABLE and WR.ENABLE: each set bit of the mask clears, or sets, its channel's flag; a clear bit
changes nothing; every other register of the map but the status byte reads as before; the selection is
cleared, ACK (R142, R143, R113). -/
def Obligations.MaskWritesChangeNamedFlags : Prop :=
  ∀ q ∈ ([(.wrDisable, false), (.wrEnable, true)] : List ((Byte → Instr) × Bool)),
    ∀ (d : Byte) (s : State), ∃ t, exec (q.1 d) s = .next t ∧
      (∀ k : Chan, bitOf t.reg.en k = if d.getLsbD k.toNat then q.2 else bitOf s.reg.en k) ∧
      t.reg = { s.reg with en := t.reg.en } ∧ (∀ b : Byte, b ≠ 0x42#8 → RegisterKept b s t) ∧
      Recovered s t ∧ Answers .ack s t ∧ t.ir = s.ir ∧ EnvKept s t

/-- WR.PWM0 to WR.PWM3: all eight bits are stored in the channel's byte; every other register of the map
reads as before (R144 to R147: `pwm[k] <- d`, all eight bits); the selection is cleared, ACK (R113). -/
def Obligations.WrPwmStoresByte : Prop :=
  ∀ q ∈ ([(.wrPwm0, 0, 0x50#8), (.wrPwm1, 1, 0x51#8), (.wrPwm2, 2, 0x52#8), (.wrPwm3, 3, 0x53#8)] :
      List ((Byte → Instr) × Chan × Byte)),
    ∀ (d : Byte) (s : State), ∃ t, exec (q.1 d) s = .next t ∧
      chanGet t.reg.pwm q.2.1 = d ∧
      (∀ k : Chan, k ≠ q.2.1 → chanGet t.reg.pwm k = chanGet s.reg.pwm k) ∧
      t.reg = { s.reg with pwm := t.reg.pwm } ∧ (∀ b : Byte, b ≠ q.2.2 → RegisterKept b s t) ∧
      Recovered s t ∧ Answers .ack s t ∧ t.ir = s.ir ∧ EnvKept s t

/-- RD.VERSION, RD.VENDOR, RD.PRODUCT load the eight characters; nothing else changes (R131 to R133; the
row by itself only loads: log 8). -/
def Obligations.RdIdentityLoadsString : Prop :=
  ∀ q ∈ ([(.rdVersion, (·.versionStr)), (.rdVendor, (·.vendorStr)), (.rdProduct, (·.productStr))] :
      List (Instr × (Params → Vector Byte 8))),
    ∀ s : State, ∃ t, exec q.1 s = .next t ∧
      t.ser = { s.ser with buf := q.2 s.cfg } ∧ t.bus = s.bus ∧ OnlySerial s t

/-- RD.STATUS loads the status byte with the layout of R56; nothing else changes (R134, R56;
log 8). -/
def Obligations.RdStatusLoadsLayout : Prop :=
  ∀ s : State, ∃ t, exec .rdStatus s = .next t ∧
    t.ser.buf[0].getLsbD 7 = false ∧ t.ser.buf[0].getLsbD 6 = s.reg.waiting ∧
    t.ser.buf[0].extractLsb' 4 2 = s.reg.cur ∧ t.ser.buf[0].extractLsb' 0 4 = s.reg.en ∧
    (∀ i : Fin 8, i ≠ 0 → t.ser.buf[i] = s.ser.buf[i]) ∧
    t.ser = { s.ser with buf := t.ser.buf } ∧ t.bus = s.bus ∧ OnlySerial s t

/-- RD.PWM0 to RD.PWM3 load all eight bits of the channel's byte; nothing else changes (R135 to R138;
log 8). -/
def Obligations.RdPwmLoadsByte : Prop :=
  ∀ q ∈ ([(.rdPwm0, 0), (.rdPwm1, 1), (.rdPwm2, 2), (.rdPwm3, 3)] : List (Instr × Chan)),
    ∀ s : State, ∃ t, exec q.1 s = .next t ∧
      t.ser.buf[0] = chanGet s.reg.pwm q.2 ∧ (∀ i : Fin 8, i ≠ 0 → t.ser.buf[i] = s.ser.buf[i]) ∧
      t.ser = { s.ser with buf := t.ser.buf } ∧ t.bus = s.bus ∧ OnlySerial s t

/-- HACK while streaming: the cursor advances modulo the register's width; outside a read nothing changes
(R115, R117). -/
def Obligations.HackAdvancesCursor : Prop :=
  ∀ s : State,
    (s.ser.pstate = .streamingReadData → ∃ t, exec .hack s = .next t ∧
      t.ser.cursor.toNat = (s.ser.cursor.toNat + 1) % width s.ser.sel ∧
      t.ser = { s.ser with cursor := t.ser.cursor } ∧ t.bus = s.bus ∧ OnlySerial s t) ∧
    (s.ser.pstate ≠ .streamingReadData → exec .hack s = .next s)

/-- HNACK while streaming: the abort; outside a read nothing changes (R116, R162, R117). -/
def Obligations.HnackAborts : Prop :=
  ∀ s : State,
    (s.ser.pstate = .streamingReadData → ∃ t, exec .hnack s = .next t ∧
      Recovered s t ∧ t.bus = s.bus ∧ OnlySerial s t) ∧
    (s.ser.pstate ≠ .streamingReadData → exec .hnack s = .next s)

/-- S.START and S.STOP in any state: address-await, armed by a START only, the selection kept (R105,
R106). -/
def Obligations.StartArmsStopDisarms : Prop :=
  ∀ q ∈ ([(.sStart, true), (.sStop, false)] : List (Instr × Bool)),
    ∀ s : State, ∃ t, exec q.1 s = .next t ∧
      t.ser = { s.ser with pstate := .awaitingAddress, armed := q.2 } ∧ t.bus = s.bus ∧
      OnlySerial s t

/-! ## The infrared operations -/

/-- TB.STARTING: `tstate` SendingStartMark, `zeros` 0 (R74) and BeginMark: `tcnt` 0, the carrier on, `cmpa`
T_MARK (R73). -/
def Obligations.TbStartingBeginsStartMark : Prop :=
  ∀ s : State, ∃ t, exec .tbStarting s = .next t ∧
    t.ir = { s.ir with
      tstate := .sendingStartMark, zeros := 0, tcnt := 0, carrierOn := true
      cmpa := BitVec.ofNat 16 s.cfg.tMark } ∧ OnlyIrEngine s t

/-- TA.STARTMARK and TA.STOPMARK: `carrier_on <- 0`, `cmpb <- T_MARK + T_GAPS` (R75, R79). -/
def Obligations.EdgeMarksEndWithLongGap : Prop :=
  ∀ i ∈ ([.taStartmark, .taStopmark] : List Instr), ∀ s : State, ∃ t, exec i s = .next t ∧
    t.ir = { s.ir with
      carrierOn := false, cmpb := BitVec.ofNat 16 (s.cfg.tMark + s.cfg.tGaps) } ∧ OnlyIrEngine s t

/-- TA.BIT: the carrier goes off, the boundary is chosen by the bit being sent (R77). -/
def Obligations.TaBitGapFollowsBit : Prop :=
  ∀ s : State, ∃ t, exec .taBit s = .next t ∧
    t.ir = { s.ir with
      carrierOn := false
      cmpb := BitVec.ofNat 16
        (s.cfg.tMark + if s.ir.bitval then s.cfg.tGap1 else s.cfg.tGap0) } ∧ OnlyIrEngine s t

/-- TB.STARTMARK: the top bit of the command word becomes bit 15 being sent (R76, R73). -/
def Obligations.TbStartmarkLatchesTopBit : Prop :=
  ∀ s : State, ∃ t, exec .tbStartmark s = .next t ∧
    t.ir = { s.ir with
      bitval := s.ir.shreg.getLsbD 15, shreg := s.ir.shreg <<< 1, bitpos := 15
      zeros := if s.ir.shreg.getLsbD 15 then s.ir.zeros else s.ir.zeros + 1
      tstate := .sendingBit, tcnt := 0, carrierOn := true
      cmpa := BitVec.ofNat 16 s.cfg.tMark } ∧ OnlyIrEngine s t

/-- TB.BIT: the next bit while any is left, the stop mark after bit 0 (R78, R73). -/
def Obligations.TbBitShiftsNextBit : Prop :=
  ∀ s : State, ∃ t, exec .tbBit s = .next t ∧
    t.ir = (if s.ir.bitpos = 0 then
      { s.ir with
        tstate := .sendingStopMark, tcnt := 0, carrierOn := true
        cmpa := BitVec.ofNat 16 s.cfg.tMark }
     else
      { s.ir with
        bitval := s.ir.shreg.getLsbD 15, shreg := s.ir.shreg <<< 1, bitpos := s.ir.bitpos - 1
        zeros := if s.ir.shreg.getLsbD 15 then s.ir.zeros else s.ir.zeros + 1
        tcnt := 0, carrierOn := true, cmpa := BitVec.ofNat 16 s.cfg.tMark }) ∧ OnlyIrEngine s t

/-- TB.STOPMARK: the trailing gap is armed and the scheduler step runs (R80, R90, R94); only the status
byte of the register map may read otherwise. -/
def Obligations.TbStopmarkArmsTrailingGap : Prop :=
  ∀ s : State, ∃ t, exec .tbStopmark s = .next t ∧
    Scheduled s.reg s.ir.shreg .starting t ∧
    t.ir = { s.ir with
      tcnt := 0, cmpb := BitVec.ofNat 16 (trailing s.cfg s.ir.zeros.toNat)
      tstate := t.ir.tstate, shreg := t.ir.shreg } ∧
    (∀ b : Byte, b ≠ 0x42#8 → RegisterKept b s t) ∧ OnlyInfrared s t

/-- TB.STOPPED in Stopped: a new slot, the scheduler step, and the start mark at once if a channel is
selected (R81, R90, R94). That the step also runs at the end of a trailing gap, the second one in that slot,
is the model's choice between R81 and R97 (log 26). -/
def Obligations.TbStoppedPollsRegistry : Prop :=
  ∀ s : State, s.ir.tstate = .stopped → ∃ t, exec .tbStopped s = .next t ∧
    Scheduled s.reg s.ir.shreg .sendingStartMark t ∧
    t.ir = (if bitOf s.reg.en t.reg.cur then
      { s.ir with
        tcnt := 0, cmpb := BitVec.ofNat 16 s.cfg.tFrame, zeros := 0, carrierOn := true
        cmpa := BitVec.ofNat 16 s.cfg.tMark, tstate := t.ir.tstate, shreg := t.ir.shreg }
     else
      { s.ir with tcnt := 0, cmpb := BitVec.ofNat 16 s.cfg.tFrame }) ∧
    (∀ b : Byte, b ≠ 0x42#8 → RegisterKept b s t) ∧ OnlyInfrared s t

/-- SCHED: every countdown moves; the selection runs only in Stopped (R90, R91, R92, R94). -/
def Obligations.SchedSelectsOnlyWhenStopped : Prop :=
  ∀ s : State, ∃ t, exec .sched s = .next t ∧
    (s.ir.tstate = .stopped → Scheduled s.reg s.ir.shreg .starting t) ∧
    (s.ir.tstate ≠ .stopped → t.ir = s.ir ∧
      (∀ k : Chan, chanGet t.reg.countdown k =
        if chanGet s.reg.countdown k = 1 then chanGet s.cfg.period k
        else chanGet s.reg.countdown k - 1) ∧
      t.reg = { s.reg with countdown := t.reg.countdown }) ∧
    t.ir = { s.ir with tstate := t.ir.tstate, shreg := t.ir.shreg } ∧
    (∀ b : Byte, b ≠ 0x42#8 → RegisterKept b s t) ∧ OnlyInfrared s t

/-- FRAME: the four nibbles of the command word, from the marker, the channel and the low nibble of the
PWM byte (R70, R58); it goes to the shift register (the model's reading of R94: log 9). -/
def Obligations.FrameBuildsCommandWord : Prop :=
  ∀ (c : Chan) (p : Byte) (s : State), ∃ t, exec (.frame c p) s = .next t ∧
    t.ir.shreg.extractLsb' 12 4 = s.cfg.marker ∧
    t.ir.shreg.extractLsb' 8 4 = c.zeroExtend 4 ∧
    t.ir.shreg.extractLsb' 4 4 = p.extractLsb' 0 4 ∧
    t.ir.shreg.extractLsb' 0 4 = 0xF ^^^ s.cfg.marker ^^^ c.zeroExtend 4 ^^^ p.extractLsb' 0 4 ∧
    t.ir = { s.ir with shreg := t.ir.shreg } ∧ OnlyIrEngine s t

/-! ## The frame and the arbiter -/

/-- Every command word has between 4 and 12 zero bits (R83). -/
def Obligations.CommandWordZeroRange : Prop :=
  ∀ (c : Params) (ch : Chan) (p : Byte), InZeroRange (topZeros 16 (frameWord c ch p))

/-- Start, stop, the 16 data bits and the trailing gap sum to T_FRAME for every number of zero bits, and
the gap is at least one tick (R71, R82). -/
def Obligations.TrailingGapCompletesFrame : Prop :=
  ∀ (c : Params) (z : Nat), c.TimingValid → z ≤ 16 →
    1 ≤ trailing c z ∧
    2 * edgeSymbol c + z * bitSymbol c false + (16 - z) * bitSymbol c true + trailing c z = c.tFrame

/-- What the arbiter of R93 keeps of R95 (a), (c) and (d). In a scheduler step in Stopped: with some channel
enabled a frame of an enabled channel is queued; with none `cur` is unchanged and the registry waits; and if
an enabled channel other than `cur` is freshly eligible, one such channel is chosen (R94, R96 (b)). Over
steps: with the default periods, the countdowns at them and all four channels enabled, each channel's frame
is queued by some step up to the 14th, wherever `cur` starts (R96 (c)). R95 (b) has no other exact form in the
spec. NextChannel is the spec's own choice (D21: log 10). -/
def Obligations.ArbiterServesDueChannels : Prop :=
  ∀ s : State,
    (s.ir.tstate = .stopped → ∃ t, exec .sched s = .next t ∧
      (s.reg.en ≠ 0 → t.ir.tstate = .starting ∧ bitOf s.reg.en t.reg.cur = true ∧
        t.reg.waiting = false) ∧
      (s.reg.en = 0 → t.ir.tstate = .stopped ∧ t.reg.cur = s.reg.cur ∧ t.reg.waiting = true) ∧
      (∀ k : Chan, k ≠ s.reg.cur → bitOf s.reg.en k = true → chanGet s.reg.countdown k = 1 →
        t.reg.cur ≠ s.reg.cur ∧ bitOf s.reg.en t.reg.cur = true ∧
          chanGet s.reg.countdown t.reg.cur = 1)) ∧
    (s.cfg.period = #v[8, 10, 12, 14] → s.reg.countdown = #v[8, 10, 12, 14] → s.reg.en = 0b1111 →
      ∀ k : Chan, ∃ (n : Nat) (t : State), 1 ≤ n ∧ n ≤ 14 ∧ schedRun n s = .next t ∧
        t.reg.cur = k ∧ t.ir.tstate = .starting ∧
        t.ir.shreg = frameWord s.cfg k (chanGet s.reg.pwm k))

/-- NextChannel (R93): the first freshly eligible enabled channel in cyclic order after `cur`, `cur`
itself last; if there is none, `cur` if enabled; else the first enabled channel after it; else `cur`. R93 calls
the whole function this spec's choice (D21: log 10). -/
def Obligations.NextChannelInCyclicOrder : Prop :=
  ∀ (cur : Chan) (elig en : ChanMask),
    (elig &&& en ≠ 0 → ∃ j : Nat, 1 ≤ j ∧ j ≤ 4 ∧ nextChannel cur elig en = cur + BitVec.ofNat 2 j ∧
      bitOf (elig &&& en) (cur + BitVec.ofNat 2 j) = true ∧
      ∀ j' : Nat, 1 ≤ j' → j' < j → bitOf (elig &&& en) (cur + BitVec.ofNat 2 j') = false) ∧
    (elig &&& en = 0 → bitOf en cur = true → nextChannel cur elig en = cur) ∧
    (elig &&& en = 0 → bitOf en cur = false → en ≠ 0 → ∃ j : Nat, 1 ≤ j ∧ j ≤ 3 ∧
      nextChannel cur elig en = cur + BitVec.ofNat 2 j ∧
      bitOf en (cur + BitVec.ofNat 2 j) = true ∧
      ∀ j' : Nat, 1 ≤ j' → j' < j → bitOf en (cur + BitVec.ofNat 2 j') = false) ∧
    (en = 0 → nextChannel cur elig en = cur)

/-- From the reset countdowns, after `n` scheduler steps channel `k` counts `PERIOD[k] - n mod PERIOD[k]`
(R91, R96 (c)). -/
def Obligations.CountdownIsPeriodic : Prop :=
  ∀ (c : Params) (r : Registry) (n : Nat) (k : Chan), c.PeriodValid → r.countdown = c.period →
    (chanGet (countdownSteps c n r).countdown k).toNat =
      (chanGet c.period k).toNat - n % (chanGet c.period k).toNat

/-! ## Invariants -/

/-- Every step keeps the serial engine's invariants R119 (a) to (e). -/
def Obligations.StepKeepsProtocolInv : Prop :=
  ∀ s t : State, ProtocolInv s → step s = .next t → ProtocolInv t

/-- Every step keeps `1 <= countdown[k] <= PERIOD[k]` (R13). -/
def Obligations.StepKeepsCountdownInv : Prop :=
  ∀ s t : State, s.cfg.PeriodValid → CountdownInv s → step s = .next t → CountdownInv t

/-- Every step keeps `waiting = 1` exactly when `tstate = Stopped` (R15). -/
def Obligations.StepKeepsWaitingInv : Prop :=
  ∀ s t : State, WaitingInv s → step s = .next t → WaitingInv t

/-- Every step keeps the timer's invariant: the count is below the compare value armed, which is that of
the present symbol, gap or slot (R72, R84). -/
def Obligations.StepKeepsTimerInv : Prop :=
  ∀ s t : State, s.cfg.TimingValid → TimerInv s → step s = .next t → TimerInv t

/-- Every step keeps the zero count of the frame queued or in flight between 4 and 12 (R83). -/
def Obligations.StepKeepsZeroCountInv : Prop :=
  ∀ s t : State, ZeroCountInv s → step s = .next t → ZeroCountInv t

/-- No step writes the configuration (R25, R182 (d); its place in the state is the model's choice:
log 3). -/
def Obligations.StepKeepsConfiguration : Prop :=
  ∀ s t : State, step s = .next t → t.cfg = s.cfg

/-- The invariants hold after reset, for every configuration within the constraints of R6, and for the
configuration of `State.reset`, which is within them. -/
def Obligations.InvariantsHoldAtReset : Prop :=
  Config.params.Valid ∧
  ∀ c : Params, c.Valid → ProtocolInv (State.resetWith c) ∧ CountdownInv (State.resetWith c) ∧
    WaitingInv (State.resetWith c) ∧ TimerInv (State.resetWith c) ∧ ZeroCountInv (State.resetWith c)

/-- The reset values of R28, for every configuration. -/
def Obligations.ResetValues : Prop :=
  ∀ c : Params,
    (State.resetWith c).reg.en = 0 ∧
    (∀ k : Chan, chanGet (State.resetWith c).reg.pwm k = 0 ∧
      chanGet (State.resetWith c).reg.countdown k = chanGet c.period k) ∧
    (State.resetWith c).reg.cur = 0 ∧ (State.resetWith c).reg.waiting = true ∧
    (State.resetWith c).ir = ⟨.stopped, 0, false, 0, 0, 0, 0, BitVec.ofNat 16 c.tFrame, false⟩ ∧
    (State.resetWith c).ser.pstate = .awaitingAddress ∧ (State.resetWith c).ser.sel = c.sentinel ∧
    (State.resetWith c).ser.armed = false ∧ (State.resetWith c).ser.cursor = 0 ∧
    (∀ i : Fin 8, (State.resetWith c).ser.buf[i] = 0) ∧
    (State.resetWith c).bus = ⟨0, 0, false, .none, true, true, false⟩

/-! ## Whole-machine rules -/

/-- A serial event never stops the machine and changes nothing of the IR engine, `countdown`, `cur` or
`waiting` (R140, R29, R172). -/
def Obligations.SerialEventsLeaveInfrared : Prop :=
  ∀ (e : Event) (s : State), SerialEvent e → ∃ t, deliver e s = .next t ∧ t.ir = s.ir ∧
    t.reg.countdown = s.reg.countdown ∧ t.reg.cur = s.reg.cur ∧ t.reg.waiting = s.reg.waiting ∧
    EnvKept s t

/-- A timer event changes nothing of the serial engine, the bit layer, `en` or `pwm` (R11, R12, R29,
R172). -/
def Obligations.TimerEventsLeaveSerial : Prop :=
  ∀ (e : Event) (s t : State), ¬ SerialEvent e → deliver e s = .next t →
    t.ser = s.ser ∧ t.bus = s.bus ∧ t.reg.en = s.reg.en ∧ t.reg.pwm = s.reg.pwm ∧ EnvKept s t

/-- On one clk edge the order of the two handlers matters only if the timer's handler runs a scheduler
step (R168, R40). -/
def Obligations.SimultaneousHandlersCommute : Prop :=
  ∀ (p : Ports) (s : State),
    (p.tick = true → s.ir.carrierOn = false → s.ir.tcnt + 1 = s.ir.cmpb →
      s.ir.tstate ≠ .stopped ∧ s.ir.tstate ≠ .sendingStopMark) →
    andThen (timerEdge p s) (serialEdge p) = andThen (serialEdge p s) (timerEdge p)

/-- In the timer's invariant every input completes, whatever the port levels and the event, but a CMPA
delivered with the carrier off or a CMPB delivered with it on, which the timer cannot raise; these two are
refused in any state (R165, R84, R72; that they are refused is the model's reading: log 6). -/
def Obligations.OnlyUnraisableTimerEventsStop : Prop :=
  ∀ s : State,
    (TimerInv s → ∀ i : Input, (i = .event .cmpA → s.ir.carrierOn = true) →
      (i = .event .cmpB → s.ir.carrierOn = false) → ∃ t, runInput i s = .next t) ∧
    (s.ir.carrierOn = false → runInput (.event .cmpA) s = .refused .timerEventNotRaised) ∧
    (s.ir.carrierOn = true → runInput (.event .cmpB) s = .refused .timerEventNotRaised)

/-- Events that no row of the table takes: a CMPA in Stopped or Starting is refused (R84); a byte that
arrives unarmed in AwaitingAddress, or while the block is sending, changes no state but the answer
register, which says NONE (R108, R117; the answer register is the model's carrier: log 5). -/
def Obligations.EventsWithNoRow : Prop :=
  ∀ (b : Byte) (s : State),
    (s.ir.tstate = .stopped ∨ s.ir.tstate = .starting →
      deliver .cmpA s = .refused .timerEventNotRaised) ∧
    ((s.ser.pstate = .awaitingAddress ∧ s.ser.armed = false) ∨ s.ser.pstate = .streamingReadData →
      ∃ t, deliver (.rxByte b) s = .next t ∧ t.ser = s.ser ∧ Answers .none s t ∧ OnlySerial s t)

/-- A step never changes the frame queued or in flight: it still sends the same word, until its stop
symbol ends or the block is reset (R45, R41, R59). -/
def Obligations.FrameInFlightIsNeverChanged : Prop :=
  ∀ (w : CommandWord) (s t : State), Sending w s.ir → step s = .next t →
    Sending w t.ir ∨
    (s.ir.tstate = .sendingStopMark ∧ (t.ir.tstate = .stopped ∨ t.ir.tstate = .starting)) ∨
    t.ir = (State.resetWith s.cfg).ir

/-- One tick moves the time within the slot on by one, modulo T_FRAME, whatever the frame's bits and
whatever the bus does; a clk edge without a tick leaves it (R82, R190). -/
def Obligations.TickAdvancesSlotTime : Prop :=
  ∀ (p : Ports) (s : State), s.cfg.TimingValid → TimerInv s → p.rstN = true →
    ∃ t, clkEdge p s = .next t ∧
      slotTime t.cfg t.ir =
        if p.tick then (slotTime s.cfg s.ir + 1) % s.cfg.tFrame else slotTime s.cfg s.ir

/-- Frame time law over runs: after any clk edges without reset, however many of them tick, the time
within the slot is the time before plus the ticks, modulo T_FRAME; so T_FRAME ticks pass from one slot's
start to the next (R82). -/
def Obligations.SlotTakesFrameTime : Prop :=
  ∀ (ps : List Ports) (s : State), s.cfg.TimingValid → TimerInv s → (∀ p ∈ ps, p.rstN = true) →
    ∃ t, runPorts ps s = .next t ∧ TimerInv t ∧
      slotTime t.cfg t.ir = (slotTime s.cfg s.ir + tickCount ps) % s.cfg.tFrame

/-- A start mark begins only at the start of a slot: a clk edge that enters SendingStartMark comes one tick
before the slot's end and leaves time 0 (R82). -/
def Obligations.StartMarksOnlyAtSlotStart : Prop :=
  ∀ (p : Ports) (s t : State), s.cfg.TimingValid → TimerInv s → clkEdge p s = .next t →
    s.ir.tstate ≠ .sendingStartMark → t.ir.tstate = .sendingStartMark →
      slotTime s.cfg s.ir + 1 = s.cfg.tFrame ∧ slotTime t.cfg t.ir = 0 ∧ t.ir.carrierOn = true

/-- A byte frame received on the wires (R102, R103, R9; wire conventions: log 11). Its eight data clocks
deliver the byte they carry as RXBYTE at event level, for the first byte after a START (bit count 0, whatever
the last clock level) and for every later one (bit count 9, the line released as the frame begins); in the
ninth clock the line is pulled low exactly if the answer is ACK; the falling edge after it begins the next
frame, unless the block streams. -/
def Obligations.WireByteIsRxByte : Prop :=
  ∀ (b : Byte) (l : Bool) (s : State),
    (s.bus.bitcnt = 0 → s.bus.dirtx = false →
      runPorts (bytePorts b) s = deliver (.rxByte b)
        { s with bus := { s.bus with
          sreg := b, bitcnt := 8, sdaOe := false, sclQ := true, sdaQ := b.getLsbD 0 } }) ∧
    (s.bus.bitcnt = 9 → s.bus.sclQ = true → s.ser.pstate ≠ .streamingReadData →
      runPorts (bytePorts b) s = deliver (.rxByte b)
        { s with bus := { s.bus with
          sreg := b, bitcnt := 8, dirtx := false, ackres := .none
          sdaOe := false, sclQ := true, sdaQ := b.getLsbD 0 } }) ∧
    (s.bus.bitcnt = 8 → s.bus.dirtx = false → s.bus.sclQ = true →
      clkEdge (clockLow l) s =
        .next { s with bus := { s.bus with
          sdaOe := decide (s.bus.ackres = .ack), sclQ := false, sdaQ := l } }) ∧
    (s.bus.bitcnt = 8 → s.bus.dirtx = false → s.bus.sclQ = false →
      clkEdge (clockHigh l) s =
        .next { s with bus := { s.bus with bitcnt := 9, sclQ := true, sdaQ := l } }) ∧
    (s.bus.bitcnt = 9 → s.bus.sclQ = true → s.ser.pstate ≠ .streamingReadData →
      clkEdge (clockLow l) s =
        .next { s with bus := { s.bus with
          bitcnt := 0, dirtx := false, ackres := .none, sdaOe := false, sclQ := false, sdaQ := l } })

/-- A byte frame sent on the wires (R102, R103, R114; wire conventions: log 11). The line in data slot `n`
carries bit `7 - n` of `buf[cursor]`: pulled low for a 0, released for a 1, whatever the host does with its
side; in the slot after them the line is released, and its rising clock edge delivers the host's bit, low for
HACK and high for HNACK, and ends the frame. -/
def Obligations.SentByteOnWires : Prop :=
  ∀ (first : Bool) (levels : List (Bool × Bool)) (s : State),
    s.ser.pstate = .streamingReadData → s.bus.bitcnt = 9 → s.bus.sclQ = true → levels.length ≤ 8 →
    ∃ t, runPorts (sendPorts first levels) s = .next t ∧
      t.bus.sdaOe = (if levels.length = 8 then false
        else !(readData s).getLsbD (7 - levels.length)) ∧
      t.bus.dirtx = true ∧ t.bus.bitcnt.toNat = levels.length ∧ t.ser = s.ser ∧ OnlySerial s t ∧
      (levels.length = 8 → ∀ h : Bool, ∃ u,
        deliver (.hack (if h then .nack else .ack))
          { t with bus := { t.bus with sclQ := true, sdaQ := h } } = .next u ∧
        clkEdge (clockHigh h) t = .next { u with bus := { u.bus with bitcnt := 9 } })

/-- Writing a PWM register and reading it back gives the byte written, from any state with nothing
selected (R144 to R147, R135 to R138, R105, R106, R110 to R113). -/
def Obligations.PwmWriteReadsBack : Prop :=
  ∀ (s : State) (k : Chan) (v : Byte), s.cfg.SentinelValid → s.ser.sel = s.cfg.sentinel →
    ∃ t, runEvents
        [.start, .rxByte (addressByte s.cfg.deviceAddress false), .rxByte (0x50#8 + k.zeroExtend 8),
          .rxByte v, .stop,
         .start, .rxByte (addressByte s.cfg.deviceAddress false), .rxByte (0x50#8 + k.zeroExtend 8),
         .start, .rxByte (addressByte s.cfg.deviceAddress true)] s = .next t ∧
      t.ser.pstate = .streamingReadData ∧ t.bus.ackres = .ack ∧ readData t = v ∧
      chanGet t.reg.pwm k = v ∧ t.ir = s.ir

/-- After ADDR.R and `n` host ACKs the byte sent next is byte `n mod Width(sel)` of the snapshot, for every
readable register (R115, R114, R110). -/
def Obligations.StreamedReadWraps : Prop :=
  ∀ (s : State) (n : Nat), s.ser.sel ≠ s.cfg.sentinel → readable s.ser.sel = true →
    s.ser.pstate = .awaitingAddress → s.ser.armed = true →
    ∃ t, runEvents (.rxByte (addressByte s.cfg.deviceAddress true) ::
        List.replicate n (.hack .ack)) s = .next t ∧
      t.ser.pstate = .streamingReadData ∧
      some (readData t) = (memRead s.cfg s.reg s.ser.sel)[n % width s.ser.sel]?

/-- A select byte outside the register map is refused whatever it is, in the transaction that carries it:
NACK, the known state, no register changed (R112, R33, R118). -/
def Obligations.UnmappedSelectIsRefused : Prop :=
  ∀ (s : State) (b : Byte), s.ser.sel = s.cfg.sentinel → b ∉ whitelist →
    ∃ t, runEvents [.start, .rxByte (addressByte s.cfg.deviceAddress false), .rxByte b] s = .next t ∧
      Recovered s t ∧ t.bus.ackres = .nack ∧ OnlySerial s t

/-- The envelope is the carrier flag, and the gated output is on only within the envelope and only in the
high part of the tick period (R85; duty and phase as fractions: log 15). -/
def Obligations.OutputIsGatedCarrier : Prop :=
  ∀ (s : State) (num den : Nat), irEnv s = s.ir.carrierOn ∧
    (irOut s num den = true ↔
      s.ir.carrierOn = true ∧ num * s.cfg.dutyDen < s.cfg.dutyNum * den)
end

