-- ==== Sys2Proof/Laws/State.lean ====
section
/-! SUPPORT. One lemma per field and named update of the state, so that no proof unfolds an update. -/

namespace Sys2Proof.Machine

@[simp] theorem answer_cfg (s : State) (a : Answer) : (s.answer a).cfg = s.cfg := rfl
@[simp] theorem answer_reg (s : State) (a : Answer) : (s.answer a).reg = s.reg := rfl
@[simp] theorem answer_ir (s : State) (a : Answer) : (s.answer a).ir = s.ir := rfl
@[simp] theorem answer_ser (s : State) (a : Answer) : (s.answer a).ser = s.ser := rfl
@[simp] theorem answer_bus (s : State) (a : Answer) :
    (s.answer a).bus = { s.bus with ackres := a } := rfl
@[simp] theorem answer_inputs (s : State) (a : Answer) : (s.answer a).inputs = s.inputs := rfl
@[simp] theorem answer_edges (s : State) (a : Answer) : (s.answer a).edges = s.edges := rfl

@[simp] theorem recover_cfg (s : State) : (s.recover).cfg = s.cfg := rfl
@[simp] theorem recover_reg (s : State) : (s.recover).reg = s.reg := rfl
@[simp] theorem recover_ir (s : State) : (s.recover).ir = s.ir := rfl
@[simp] theorem recover_ser (s : State) :
    (s.recover).ser = { s.ser with sel := s.cfg.sentinel, pstate := .awaitingAddress, armed := false } := rfl
@[simp] theorem recover_bus (s : State) : (s.recover).bus = s.bus := rfl
@[simp] theorem recover_inputs (s : State) : (s.recover).inputs = s.inputs := rfl
@[simp] theorem recover_edges (s : State) : (s.recover).edges = s.edges := rfl

@[simp] theorem violation_cfg (c : Cause) (s : State) : (violation c s).cfg = s.cfg := rfl
@[simp] theorem violation_reg (c : Cause) (s : State) : (violation c s).reg = s.reg := rfl
@[simp] theorem violation_ir (c : Cause) (s : State) : (violation c s).ir = s.ir := rfl
@[simp] theorem violation_ser (c : Cause) (s : State) : (violation c s).ser = s.recover.ser := rfl
@[simp] theorem violation_bus (c : Cause) (s : State) :
    (violation c s).bus = { s.bus with ackres := .nack } := rfl
@[simp] theorem violation_inputs (c : Cause) (s : State) : (violation c s).inputs = s.inputs := rfl
@[simp] theorem violation_edges (c : Cause) (s : State) : (violation c s).edges = s.edges := rfl

@[simp] theorem abort_cfg (s : State) : (abort s).cfg = s.cfg := rfl
@[simp] theorem abort_reg (s : State) : (abort s).reg = s.reg := rfl
@[simp] theorem abort_ir (s : State) : (abort s).ir = s.ir := rfl
@[simp] theorem abort_ser (s : State) : (abort s).ser = s.recover.ser := rfl
@[simp] theorem abort_bus (s : State) : (abort s).bus = s.bus := rfl
@[simp] theorem abort_inputs (s : State) : (abort s).inputs = s.inputs := rfl
@[simp] theorem abort_edges (s : State) : (abort s).edges = s.edges := rfl

@[simp] theorem disarm_cfg (s : State) : (disarm s).cfg = s.cfg := rfl
@[simp] theorem disarm_reg (s : State) : (disarm s).reg = s.reg := rfl
@[simp] theorem disarm_ir (s : State) : (disarm s).ir = s.ir := rfl
@[simp] theorem disarm_ser (s : State) : (disarm s).ser = { s.ser with armed := false } := rfl
@[simp] theorem disarm_bus (s : State) : (disarm s).bus = s.bus := rfl
@[simp] theorem disarm_inputs (s : State) : (disarm s).inputs = s.inputs := rfl
@[simp] theorem disarm_edges (s : State) : (disarm s).edges = s.edges := rfl

@[simp] theorem loadBuffer_cfg (a : Byte) (s : State) : (loadBuffer a s).cfg = s.cfg := rfl
@[simp] theorem loadBuffer_reg (a : Byte) (s : State) : (loadBuffer a s).reg = s.reg := rfl
@[simp] theorem loadBuffer_ir (a : Byte) (s : State) : (loadBuffer a s).ir = s.ir := rfl
@[simp] theorem loadBuffer_ser (a : Byte) (s : State) :
    (loadBuffer a s).ser = { s.ser with buf := storePrefix (memRead s.cfg s.reg a) s.ser.buf } := rfl
@[simp] theorem loadBuffer_bus (a : Byte) (s : State) : (loadBuffer a s).bus = s.bus := rfl
@[simp] theorem loadBuffer_inputs (a : Byte) (s : State) : (loadBuffer a s).inputs = s.inputs := rfl
@[simp] theorem loadBuffer_edges (a : Byte) (s : State) : (loadBuffer a s).edges = s.edges := rfl

@[simp] theorem enterStreaming_cfg (s : State) : (enterStreaming s).cfg = s.cfg := rfl
@[simp] theorem enterStreaming_reg (s : State) : (enterStreaming s).reg = s.reg := rfl
@[simp] theorem enterStreaming_ir (s : State) : (enterStreaming s).ir = s.ir := rfl
@[simp] theorem enterStreaming_ser (s : State) :
    (enterStreaming s).ser = { s.ser with cursor := 0, pstate := .streamingReadData } := rfl
@[simp] theorem enterStreaming_bus (s : State) : (enterStreaming s).bus = s.bus := rfl
@[simp] theorem enterStreaming_inputs (s : State) : (enterStreaming s).inputs = s.inputs := rfl
@[simp] theorem enterStreaming_edges (s : State) : (enterStreaming s).edges = s.edges := rfl

@[simp] theorem selectRegister_cfg (a : Byte) (s : State) : (selectRegister a s).cfg = s.cfg := rfl
@[simp] theorem selectRegister_reg (a : Byte) (s : State) : (selectRegister a s).reg = s.reg := rfl
@[simp] theorem selectRegister_ir (a : Byte) (s : State) : (selectRegister a s).ir = s.ir := rfl
@[simp] theorem selectRegister_ser (a : Byte) (s : State) :
    (selectRegister a s).ser = { s.ser with sel := a, pstate := .awaitingWriteData } := rfl
@[simp] theorem selectRegister_bus (a : Byte) (s : State) :
    (selectRegister a s).bus = { s.bus with ackres := .ack } := rfl
@[simp] theorem selectRegister_inputs (a : Byte) (s : State) :
    (selectRegister a s).inputs = s.inputs := rfl
@[simp] theorem selectRegister_edges (a : Byte) (s : State) :
    (selectRegister a s).edges = s.edges := rfl

@[simp] theorem writeRegister_cfg (a d : Byte) (s : State) :
    (writeRegister a d s).cfg = s.cfg := rfl
@[simp] theorem writeRegister_reg (a d : Byte) (s : State) :
    (writeRegister a d s).reg = memWrite a d s.reg := rfl
@[simp] theorem writeRegister_ir (a d : Byte) (s : State) : (writeRegister a d s).ir = s.ir := rfl
@[simp] theorem writeRegister_ser (a d : Byte) (s : State) :
    (writeRegister a d s).ser = s.recover.ser := rfl
@[simp] theorem writeRegister_bus (a d : Byte) (s : State) :
    (writeRegister a d s).bus = { s.bus with ackres := .ack } := rfl
@[simp] theorem writeRegister_inputs (a d : Byte) (s : State) :
    (writeRegister a d s).inputs = s.inputs := rfl
@[simp] theorem writeRegister_edges (a d : Byte) (s : State) :
    (writeRegister a d s).edges = s.edges := rfl

@[simp] theorem endFrame_cfg (s : State) : (endFrame s).cfg = s.cfg := rfl
@[simp] theorem endFrame_reg (s : State) : (endFrame s).reg = { s.reg with waiting := true } := rfl
@[simp] theorem endFrame_ir (s : State) : (endFrame s).ir = 
      { s.ir with
        tcnt := 0, tstate := .stopped, cmpb := ticks (trailing s.cfg s.ir.zeros.toNat) } := rfl
@[simp] theorem endFrame_ser (s : State) : (endFrame s).ser = s.ser := rfl
@[simp] theorem endFrame_bus (s : State) : (endFrame s).bus = s.bus := rfl
@[simp] theorem endFrame_inputs (s : State) : (endFrame s).inputs = s.inputs := rfl
@[simp] theorem endFrame_edges (s : State) : (endFrame s).edges = s.edges := rfl

@[simp] theorem beginSlot_cfg (s : State) : (beginSlot s).cfg = s.cfg := rfl
@[simp] theorem beginSlot_reg (s : State) : (beginSlot s).reg = s.reg := rfl
@[simp] theorem beginSlot_ir (s : State) :
    (beginSlot s).ir = { s.ir with tcnt := 0, cmpb := ticks s.cfg.tFrame } := rfl
@[simp] theorem beginSlot_ser (s : State) : (beginSlot s).ser = s.ser := rfl
@[simp] theorem beginSlot_bus (s : State) : (beginSlot s).bus = s.bus := rfl
@[simp] theorem beginSlot_inputs (s : State) : (beginSlot s).inputs = s.inputs := rfl
@[simp] theorem beginSlot_edges (s : State) : (beginSlot s).edges = s.edges := rfl

@[simp] theorem advanceChannel_cfg (e : ChanMask) (s : State) :
    (advanceChannel e s).cfg = s.cfg := rfl
@[simp] theorem advanceChannel_reg (e : ChanMask) (s : State) :
    (advanceChannel e s).reg = { s.reg with cur := nextChannel s.reg.cur e s.reg.en } := rfl
@[simp] theorem advanceChannel_ir (e : ChanMask) (s : State) : (advanceChannel e s).ir = s.ir := rfl
@[simp] theorem advanceChannel_ser (e : ChanMask) (s : State) :
    (advanceChannel e s).ser = s.ser := rfl
@[simp] theorem advanceChannel_bus (e : ChanMask) (s : State) :
    (advanceChannel e s).bus = s.bus := rfl
@[simp] theorem advanceChannel_inputs (e : ChanMask) (s : State) :
    (advanceChannel e s).inputs = s.inputs := rfl
@[simp] theorem advanceChannel_edges (e : ChanMask) (s : State) :
    (advanceChannel e s).edges = s.edges := rfl

@[simp] theorem queueFrame_cfg (s : State) : (queueFrame s).cfg = s.cfg := rfl
@[simp] theorem queueFrame_reg (s : State) :
    (queueFrame s).reg = { s.reg with waiting := false } := rfl
@[simp] theorem queueFrame_ir (s : State) :
    (queueFrame s).ir = { s.ir with shreg := liveFrame s.cfg s.reg, tstate := .starting } := rfl
@[simp] theorem queueFrame_ser (s : State) : (queueFrame s).ser = s.ser := rfl
@[simp] theorem queueFrame_bus (s : State) : (queueFrame s).bus = s.bus := rfl
@[simp] theorem queueFrame_inputs (s : State) : (queueFrame s).inputs = s.inputs := rfl
@[simp] theorem queueFrame_edges (s : State) : (queueFrame s).edges = s.edges := rfl

@[simp] theorem stayIdle_cfg (s : State) : (stayIdle s).cfg = s.cfg := rfl
@[simp] theorem stayIdle_reg (s : State) : (stayIdle s).reg = { s.reg with waiting := true } := rfl
@[simp] theorem stayIdle_ir (s : State) : (stayIdle s).ir = s.ir := rfl
@[simp] theorem stayIdle_ser (s : State) : (stayIdle s).ser = s.ser := rfl
@[simp] theorem stayIdle_bus (s : State) : (stayIdle s).bus = s.bus := rfl
@[simp] theorem stayIdle_inputs (s : State) : (stayIdle s).inputs = s.inputs := rfl
@[simp] theorem stayIdle_edges (s : State) : (stayIdle s).edges = s.edges := rfl

@[simp] theorem countDown_cfg (s : State) : (countDown s).cfg = s.cfg := rfl
@[simp] theorem countDown_reg (s : State) : (countDown s).reg = countdownUpdate s.cfg s.reg := rfl
@[simp] theorem countDown_ir (s : State) : (countDown s).ir = s.ir := rfl
@[simp] theorem countDown_ser (s : State) : (countDown s).ser = s.ser := rfl
@[simp] theorem countDown_bus (s : State) : (countDown s).bus = s.bus := rfl
@[simp] theorem countDown_inputs (s : State) : (countDown s).inputs = s.inputs := rfl
@[simp] theorem countDown_edges (s : State) : (countDown s).edges = s.edges := rfl

@[simp] theorem setTcnt_cfg (n : Count) (s : State) : (setTcnt n s).cfg = s.cfg := rfl
@[simp] theorem setTcnt_reg (n : Count) (s : State) : (setTcnt n s).reg = s.reg := rfl
@[simp] theorem setTcnt_ir (n : Count) (s : State) :
    (setTcnt n s).ir = { s.ir with tcnt := n } := rfl
@[simp] theorem setTcnt_ser (n : Count) (s : State) : (setTcnt n s).ser = s.ser := rfl
@[simp] theorem setTcnt_bus (n : Count) (s : State) : (setTcnt n s).bus = s.bus := rfl
@[simp] theorem setTcnt_inputs (n : Count) (s : State) : (setTcnt n s).inputs = s.inputs := rfl
@[simp] theorem setTcnt_edges (n : Count) (s : State) : (setTcnt n s).edges = s.edges := rfl

@[simp] theorem sampleLines_cfg (p : Ports) (s : State) : (sampleLines p s).cfg = s.cfg := rfl
@[simp] theorem sampleLines_reg (p : Ports) (s : State) : (sampleLines p s).reg = s.reg := rfl
@[simp] theorem sampleLines_ir (p : Ports) (s : State) : (sampleLines p s).ir = s.ir := rfl
@[simp] theorem sampleLines_ser (p : Ports) (s : State) : (sampleLines p s).ser = s.ser := rfl
@[simp] theorem sampleLines_bus (p : Ports) (s : State) :
    (sampleLines p s).bus = { s.bus with sclQ := p.scl, sdaQ := p.sdaIn } := rfl
@[simp] theorem sampleLines_inputs (p : Ports) (s : State) :
    (sampleLines p s).inputs = s.inputs := rfl
@[simp] theorem sampleLines_edges (p : Ports) (s : State) : (sampleLines p s).edges = s.edges := rfl

@[simp] theorem dropByte_cfg (s : State) : (dropByte s).cfg = s.cfg := rfl
@[simp] theorem dropByte_reg (s : State) : (dropByte s).reg = s.reg := rfl
@[simp] theorem dropByte_ir (s : State) : (dropByte s).ir = s.ir := rfl
@[simp] theorem dropByte_ser (s : State) : (dropByte s).ser = s.ser := rfl
@[simp] theorem dropByte_bus (s : State) : (dropByte s).bus = 
      { s.bus with bitcnt := 0, dirtx := false, ackres := .none, sdaOe := false } := rfl
@[simp] theorem dropByte_inputs (s : State) : (dropByte s).inputs = s.inputs := rfl
@[simp] theorem dropByte_edges (s : State) : (dropByte s).edges = s.edges := rfl

@[simp] theorem clockBit_cfg (b : Bool) (s : State) : (clockBit b s).cfg = s.cfg := rfl
@[simp] theorem clockBit_reg (b : Bool) (s : State) : (clockBit b s).reg = s.reg := rfl
@[simp] theorem clockBit_ir (b : Bool) (s : State) : (clockBit b s).ir = s.ir := rfl
@[simp] theorem clockBit_ser (b : Bool) (s : State) : (clockBit b s).ser = s.ser := rfl
@[simp] theorem clockBit_bus (b : Bool) (s : State) : (clockBit b s).bus = 
      { s.bus with
        sreg := if s.bus.dirtx then s.bus.sreg else shiftIn s.bus.sreg b
        bitcnt := s.bus.bitcnt + 1 } := rfl
@[simp] theorem clockBit_inputs (b : Bool) (s : State) : (clockBit b s).inputs = s.inputs := rfl
@[simp] theorem clockBit_edges (b : Bool) (s : State) : (clockBit b s).edges = s.edges := rfl

@[simp] theorem endNinthClock_cfg (s : State) : (endNinthClock s).cfg = s.cfg := rfl
@[simp] theorem endNinthClock_reg (s : State) : (endNinthClock s).reg = s.reg := rfl
@[simp] theorem endNinthClock_ir (s : State) : (endNinthClock s).ir = s.ir := rfl
@[simp] theorem endNinthClock_ser (s : State) : (endNinthClock s).ser = s.ser := rfl
@[simp] theorem endNinthClock_bus (s : State) :
    (endNinthClock s).bus = { s.bus with bitcnt := 9 } := rfl
@[simp] theorem endNinthClock_inputs (s : State) : (endNinthClock s).inputs = s.inputs := rfl
@[simp] theorem endNinthClock_edges (s : State) : (endNinthClock s).edges = s.edges := rfl

@[simp] theorem withEvent_cfg (e : Event) (s : State) : (withEvent e s).cfg = s.cfg := rfl
@[simp] theorem withEvent_reg (e : Event) (s : State) : (withEvent e s).reg = s.reg := rfl
@[simp] theorem withEvent_ir (e : Event) (s : State) : (withEvent e s).ir = s.ir := rfl
@[simp] theorem withEvent_ser (e : Event) (s : State) : (withEvent e s).ser = s.ser := rfl
@[simp] theorem withEvent_bus (e : Event) (s : State) : (withEvent e s).bus = s.bus := rfl
@[simp] theorem withEvent_inputs (e : Event) (s : State) :
    (withEvent e s).inputs = .event e :: s.inputs := rfl
@[simp] theorem withEvent_edges (e : Event) (s : State) : (withEvent e s).edges = s.edges := rfl

@[simp] theorem resetState_cfg (s : State) : (resetState s).cfg = s.cfg := rfl
@[simp] theorem resetState_reg (s : State) : (resetState s).reg = .reset s.cfg := rfl
@[simp] theorem resetState_ir (s : State) : (resetState s).ir = .reset s.cfg := rfl
@[simp] theorem resetState_ser (s : State) : (resetState s).ser = .reset s.cfg := rfl
@[simp] theorem resetState_bus (s : State) : (resetState s).bus = .reset := rfl
@[simp] theorem resetState_inputs (s : State) : (resetState s).inputs = s.inputs := rfl
@[simp] theorem resetState_edges (s : State) : (resetState s).edges = s.edges := rfl

@[simp] theorem beginMark_tstate (c : Params) (e : IrEngine) :
    (beginMark c e).tstate = e.tstate := rfl
@[simp] theorem beginMark_shreg (c : Params) (e : IrEngine) : (beginMark c e).shreg = e.shreg := rfl
@[simp] theorem beginMark_bitval (c : Params) (e : IrEngine) :
    (beginMark c e).bitval = e.bitval := rfl
@[simp] theorem beginMark_bitpos (c : Params) (e : IrEngine) :
    (beginMark c e).bitpos = e.bitpos := rfl
@[simp] theorem beginMark_zeros (c : Params) (e : IrEngine) : (beginMark c e).zeros = e.zeros := rfl
@[simp] theorem beginMark_tcnt (c : Params) (e : IrEngine) : (beginMark c e).tcnt = 0 := rfl
@[simp] theorem beginMark_cmpa (c : Params) (e : IrEngine) :
    (beginMark c e).cmpa = ticks c.tMark := rfl
@[simp] theorem beginMark_cmpb (c : Params) (e : IrEngine) : (beginMark c e).cmpb = e.cmpb := rfl
@[simp] theorem beginMark_carrierOn (c : Params) (e : IrEngine) :
    (beginMark c e).carrierOn = true := rfl

@[simp] theorem endMark_tstate (n : Nat) (e : IrEngine) : (endMark n e).tstate = e.tstate := rfl
@[simp] theorem endMark_shreg (n : Nat) (e : IrEngine) : (endMark n e).shreg = e.shreg := rfl
@[simp] theorem endMark_bitval (n : Nat) (e : IrEngine) : (endMark n e).bitval = e.bitval := rfl
@[simp] theorem endMark_bitpos (n : Nat) (e : IrEngine) : (endMark n e).bitpos = e.bitpos := rfl
@[simp] theorem endMark_zeros (n : Nat) (e : IrEngine) : (endMark n e).zeros = e.zeros := rfl
@[simp] theorem endMark_tcnt (n : Nat) (e : IrEngine) : (endMark n e).tcnt = e.tcnt := rfl
@[simp] theorem endMark_cmpa (n : Nat) (e : IrEngine) : (endMark n e).cmpa = e.cmpa := rfl
@[simp] theorem endMark_cmpb (n : Nat) (e : IrEngine) : (endMark n e).cmpb = ticks n := rfl
@[simp] theorem endMark_carrierOn (n : Nat) (e : IrEngine) : (endMark n e).carrierOn = false := rfl

@[simp] theorem latchBit_tstate (e : IrEngine) : (latchBit e).tstate = e.tstate := rfl
@[simp] theorem latchBit_shreg (e : IrEngine) : (latchBit e).shreg = e.shreg <<< 1 := rfl
@[simp] theorem latchBit_bitval (e : IrEngine) : (latchBit e).bitval = e.shreg.getLsbD 15 := rfl
@[simp] theorem latchBit_bitpos (e : IrEngine) : (latchBit e).bitpos = e.bitpos := rfl
@[simp] theorem latchBit_zeros (e : IrEngine) :
    (latchBit e).zeros = countZero e.zeros (e.shreg.getLsbD 15) := rfl
@[simp] theorem latchBit_tcnt (e : IrEngine) : (latchBit e).tcnt = e.tcnt := rfl
@[simp] theorem latchBit_cmpa (e : IrEngine) : (latchBit e).cmpa = e.cmpa := rfl
@[simp] theorem latchBit_cmpb (e : IrEngine) : (latchBit e).cmpb = e.cmpb := rfl
@[simp] theorem latchBit_carrierOn (e : IrEngine) : (latchBit e).carrierOn = e.carrierOn := rfl

@[simp] theorem beginFrame_tstate (c : Params) (e : IrEngine) :
    (beginFrame c e).tstate = .sendingStartMark := rfl
@[simp] theorem beginFrame_shreg (c : Params) (e : IrEngine) :
    (beginFrame c e).shreg = e.shreg := rfl
@[simp] theorem beginFrame_bitval (c : Params) (e : IrEngine) :
    (beginFrame c e).bitval = e.bitval := rfl
@[simp] theorem beginFrame_bitpos (c : Params) (e : IrEngine) :
    (beginFrame c e).bitpos = e.bitpos := rfl
@[simp] theorem beginFrame_zeros (c : Params) (e : IrEngine) : (beginFrame c e).zeros = 0 := rfl
@[simp] theorem beginFrame_tcnt (c : Params) (e : IrEngine) : (beginFrame c e).tcnt = 0 := rfl
@[simp] theorem beginFrame_cmpa (c : Params) (e : IrEngine) :
    (beginFrame c e).cmpa = ticks c.tMark := rfl
@[simp] theorem beginFrame_cmpb (c : Params) (e : IrEngine) : (beginFrame c e).cmpb = e.cmpb := rfl
@[simp] theorem beginFrame_carrierOn (c : Params) (e : IrEngine) :
    (beginFrame c e).carrierOn = true := rfl

@[simp] theorem andThen_next (s : State) (f : State → Host.Outcome State Fault Refusal) :
    andThen (.next s) f = f s := rfl

@[simp] theorem andThen_fault (r : Fault) (f : State → Host.Outcome State Fault Refusal) :
    andThen (.fault r) f = .fault r := rfl

@[simp] theorem andThen_refused (r : Refusal) (f : State → Host.Outcome State Fault Refusal) :
    andThen (.refused r) f = .refused r := rfl

end Sys2Proof.Machine
end

