-- ==== Sys2Proof/Laws/Ops.lean ====
section
/-! SUPPORT. What the shared operations do, once each: per-channel arrays, the register map's functions,
the multiplexers, the read buffer, the flags, the scheduler step. -/

namespace Sys2Proof.Machine

/-! ## Per-channel arrays and masks -/

theorem chanGet_chanSet_same {α : Type} (v : Vector α 4) (k : Chan) (x : α) :
    chanGet (chanSet v k x) k = x := by
  simp [chanGet, chanSet]

theorem chanGet_chanSet_ne {α : Type} (v : Vector α 4) {j k : Chan} (x : α) (h : k ≠ j) :
    chanGet (chanSet v j x) k = chanGet v k := by
  have hn : j.toNat ≠ k.toNat := fun e => h (BitVec.eq_of_toNat_eq e.symm)
  simp only [chanGet, chanSet]
  exact Vector.getElem_set_ne _ _ hn

theorem chan_cases (k : Chan) : k = 0 ∨ k = 1 ∨ k = 2 ∨ k = 3 := by
  revert k; decide

theorem bitOf_maskField (d : Byte) (k : Chan) : bitOf (maskField d) k = d.getLsbD k.toNat := by
  have h : k.toNat < 4 := k.isLt
  simp [bitOf, maskField, h]

theorem bitOf_disableMask (en : ChanMask) (d : Byte) (k : Chan) :
    bitOf (disableMask en d) k = (bitOf en k && !d.getLsbD k.toNat) := by
  have h : k.toNat < 4 := k.isLt
  simp [bitOf, disableMask, maskField, h]

theorem bitOf_enableMask (en : ChanMask) (d : Byte) (k : Chan) :
    bitOf (enableMask en d) k = (bitOf en k || d.getLsbD k.toNat) := by
  have h : k.toNat < 4 := k.isLt
  simp [bitOf, enableMask, maskField, h]

/-! ## Address bytes -/

@[simp] theorem addrField_addressByte (a : BitVec 7) (dir : Bool) :
    addrField (addressByte a dir) = a := by
  revert a dir; decide

@[simp] theorem dirField_addressByte (a : BitVec 7) (dir : Bool) :
    dirField (addressByte a dir) = dir := by
  revert a dir; decide

/-! ## The command word -/

theorem nibbles_append (m n k : BitVec 4) (c : Chan) (w : CommandWord)
    (hw : w = m ++ c.zeroExtend 4 ++ n ++ k) :
    w.extractLsb' 12 4 = m ∧ w.extractLsb' 8 4 = c.zeroExtend 4 ∧ w.extractLsb' 4 4 = n ∧
    w.extractLsb' 0 4 = k ∧ w.extractLsb' 10 2 = 0 ∧ w.extractLsb' 8 2 = c := by
  subst hw
  refine ⟨?_, ?_, ?_, ?_, ?_, ?_⟩ <;> apply BitVec.eq_of_getLsbD_eq <;> intro i hi <;>
    simp only [BitVec.getLsbD_extractLsb', BitVec.getLsbD_append] <;> interval_cases i <;> simp

/-- The fields of a command word (`30_encoding.md` R58). -/
theorem frameWord_fields (cfg : Params) (c : Chan) (p : Byte) :
    (frameWord cfg c p).extractLsb' 12 4 = cfg.marker ∧
    (frameWord cfg c p).extractLsb' 8 4 = c.zeroExtend 4 ∧
    (frameWord cfg c p).extractLsb' 4 4 = dataNibble p ∧
    (frameWord cfg c p).extractLsb' 0 4 =
      checksum cfg.marker (c.zeroExtend 4) (dataNibble p) ∧
    (frameWord cfg c p).extractLsb' 10 2 = 0 ∧ wordChannel (frameWord cfg c p) = c :=
  nibbles_append _ _ _ _ _ rfl

/-- The status byte's fields (`30_encoding.md` R56). -/
theorem statusByte_fields (r : Registry) :
    (statusByte r).getLsbD 7 = false ∧ (statusByte r).getLsbD 6 = r.waiting ∧
    (statusByte r).extractLsb' 4 2 = r.cur ∧ (statusByte r).extractLsb' 0 4 = r.en := by
  unfold statusByte
  generalize r.waiting = w
  generalize r.cur = c
  generalize r.en = e
  revert w c e; decide

/-! ## The register map -/

theorem readable_mem_whitelist {a : Byte} (h : readable a = true) : a ∈ whitelist := by
  simp only [readable, decide_eq_true_eq] at h
  simp only [whitelist, List.mem_cons] at h ⊢
  tauto

theorem whitelist_cases {a : Byte} (h : a ∈ whitelist) :
    a = 0x00 ∨ a = 0x08 ∨ a = 0x10 ∨ a = 0x42 ∨ a = 0x43 ∨ a = 0x44 ∨ a = 0x50 ∨ a = 0x51 ∨
      a = 0x52 ∨ a = 0x53 := by
  simpa [whitelist] using h

theorem readable_cases {a : Byte} (h : readable a = true) :
    a = 0x00 ∨ a = 0x08 ∨ a = 0x10 ∨ a = 0x42 ∨ a = 0x50 ∨ a = 0x51 ∨ a = 0x52 ∨ a = 0x53 := by
  simpa [readable] using h

theorem width_pos (a : Byte) : 0 < width a := by
  unfold width; split <;> decide

theorem width_le (a : Byte) : width a ≤ 8 := by
  unfold width; split <;> decide

theorem memRead_length (c : Params) (r : Registry) {a : Byte} (h : readable a = true) :
    (memRead c r a).length = width a := by
  rcases readable_cases h with h | h | h | h | h | h | h | h <;> subst h <;> simp [memRead, width]

/-- Only the status byte shows `en`. -/
theorem memRead_en (c : Params) (r : Registry) (e : ChanMask) {b : Byte} (h : b ≠ 0x42#8) :
    memRead c { r with en := e } b = memRead c r b := by
  simp only [memRead, if_neg h]

theorem memWrite_pwm_only (a d : Byte) (r : Registry) :
    memWrite a d r = { r with en := (memWrite a d r).en, pwm := (memWrite a d r).pwm } := by
  unfold memWrite; split_ifs <;> rfl

/-! ## The read buffer -/

theorem storePrefix_getElem (bytes : List Byte) (buf : Vector Byte 8) (i : Fin 8) :
    (storePrefix bytes buf)[i] =
      if h : i.val < bytes.length then bytes[i.val] else buf[i] := by
  simp only [storePrefix, Fin.getElem_fin, Vector.getElem_ofFn]
  split
  · rename_i h; simp [List.getD, h]
  · rename_i h; simp [List.getD, List.getElem?_eq_none (Nat.le_of_not_lt h)]

theorem storePrefix_one (x : Byte) (v : Vector Byte 8) :
    (storePrefix [x] v)[0] = x ∧ ∀ i : Fin 8, i ≠ 0 → (storePrefix [x] v)[i] = v[i] := by
  refine ⟨storePrefix_getElem [x] v 0, fun i hi => ?_⟩
  have h : i.val ≠ 0 := fun h => hi (Fin.ext h)
  rw [storePrefix_getElem, dif_neg (by simp only [List.length_singleton]; omega)]

theorem storePrefix_full (v buf : Vector Byte 8) : storePrefix v.toList buf = v := by
  refine Vector.ext fun i hi => ?_
  have := storePrefix_getElem v.toList buf ⟨i, hi⟩
  simpa [hi] using this

theorem cursorNext_toNat (sel : Byte) (c : BitVec 3) :
    (cursorNext sel c).toNat = (c.toNat + 1) % width sel := by
  have h : (c.toNat + 1) % width sel < 8 :=
    Nat.lt_of_lt_of_le (Nat.mod_lt _ (width_pos sel)) (width_le sel)
  simp only [cursorNext, BitVec.toNat_ofNat]
  exact Nat.mod_eq_of_lt h

/-! ## The scheduler step -/

theorem fresh_iff (r : Registry) (k : Chan) : fresh r k = true ↔ chanGet r.countdown k = 1 := by
  have h : fresh r k = true ↔ chanGet r.countdown k - 1 = 0 := decide_eq_true_iff
  rw [h]
  generalize chanGet r.countdown k = x
  revert x; decide

theorem bitOf_eligible (r : Registry) (k : Chan) : bitOf (eligible r) k = fresh r k := by
  have bits : ∀ a b c d : Bool, ∀ m : ChanMask,
      m = BitVec.ofBool d ++ BitVec.ofBool c ++ BitVec.ofBool b ++ BitVec.ofBool a →
      m.getLsbD 0 = a ∧ m.getLsbD 1 = b ∧ m.getLsbD 2 = c ∧ m.getLsbD 3 = d := by
    rintro a b c d _ rfl; revert a b c d; decide
  obtain ⟨h0, h1, h2, h3⟩ := bits (fresh r 0) (fresh r 1) (fresh r 2) (fresh r 3) _ rfl
  rcases chan_cases k with h | h | h | h <;> subst h
  · exact h0
  · exact h1
  · exact h2
  · exact h3

theorem countdownUpdate_get (c : Params) (r : Registry) (k : Chan) :
    chanGet (countdownUpdate c r).countdown k =
      if chanGet r.countdown k = 1 then chanGet c.period k else chanGet r.countdown k - 1 := by
  have hf := fresh_iff r k
  have : chanGet (countdownUpdate c r).countdown k = countdownNext c r k := by
    rcases chan_cases k with h | h | h | h <;> subst h <;> rfl
  rw [this]
  unfold countdownNext
  by_cases hk : fresh r k = true
  · rw [if_pos hk, if_pos (hf.1 hk)]
  · rw [if_neg hk, if_neg (fun h => hk (hf.2 h))]; rfl

@[simp] theorem countdownUpdate_en (c : Params) (r : Registry) :
    (countdownUpdate c r).en = r.en := rfl

@[simp] theorem countdownUpdate_pwm (c : Params) (r : Registry) :
    (countdownUpdate c r).pwm = r.pwm := rfl

@[simp] theorem countdownUpdate_cur (c : Params) (r : Registry) :
    (countdownUpdate c r).cur = r.cur := rfl

@[simp] theorem countdownUpdate_waiting (c : Params) (r : Registry) :
    (countdownUpdate c r).waiting = r.waiting := rfl

/-- A channel returned by the search has its bit set. -/
theorem firstFrom_some {m : ChanMask} {cur k : Chan} {js : List Chan}
    (h : firstFrom m cur js = some k) : bitOf m k = true := by
  induction js with
  | nil => cases h
  | cons j js ih =>
    simp only [firstFrom] at h
    split at h
    · cases h; assumption
    · exact ih h

/-- All that a scheduler step can do, in every state. -/
theorem schedStep_cases (s : State) :
    (s.ir.tstate ≠ .stopped ∧ schedStep s = { s with reg := countdownUpdate s.cfg s.reg }) ∨
    (s.ir.tstate = .stopped ∧ ∃ k, k = nextChannel s.reg.cur (eligible s.reg) s.reg.en ∧
      ((bitOf s.reg.en k = true ∧ schedStep s =
          { s with
            reg := { countdownUpdate s.cfg s.reg with cur := k, waiting := false }
            ir := { s.ir with
              shreg := frameWord s.cfg k (chanGet s.reg.pwm k), tstate := .starting } }) ∨
       (bitOf s.reg.en k = false ∧ schedStep s =
          { s with reg := { countdownUpdate s.cfg s.reg with cur := k, waiting := true } }))) := by
  by_cases h : s.ir.tstate = .stopped
  · refine .inr ⟨h, _, rfl, ?_⟩
    have hs : schedStep s = serveCurrent (advanceChannel (eligible s.reg) (countDown s)) := if_pos h
    by_cases hb : bitOf s.reg.en (nextChannel s.reg.cur (eligible s.reg) s.reg.en) = true
    · exact .inl ⟨hb, hs.trans (if_pos hb)⟩
    · exact .inr ⟨by simpa using hb, hs.trans (if_neg hb)⟩
  · exact .inl ⟨h, if_neg h⟩

/-- A scheduler step touches the registry's scheduling fields and the frame engine's queue only. -/
theorem schedStep_frame (s : State) :
    (schedStep s).reg.en = s.reg.en ∧ (schedStep s).reg.pwm = s.reg.pwm ∧
    (schedStep s).ir = { s.ir with
      shreg := (schedStep s).ir.shreg, tstate := (schedStep s).ir.tstate } ∧
    (schedStep s).ser = s.ser ∧ (schedStep s).bus = s.bus ∧ (schedStep s).cfg = s.cfg ∧
    (schedStep s).inputs = s.inputs ∧ (schedStep s).edges = s.edges := by
  rcases schedStep_cases s with ⟨_, h⟩ | ⟨_, k, _, ⟨_, h⟩ | ⟨_, h⟩⟩ <;> rw [h] <;> simp

end Sys2Proof.Machine
end

