-- ==== Sys2Proof/Laws/Steps.lean ====
section
/-! SUPPORT. What one clk edge, one input and one step can do, once each; and the rule that a predicate
kept by the parts is kept by a step. -/

namespace Sys2Proof.Machine

theorem andThen_eq_next {o : Host.Outcome State Fault Refusal}
    {f : State → Host.Outcome State Fault Refusal} {t : State} :
    andThen o f = .next t ↔ ∃ s, o = .next s ∧ f s = .next t := by
  cases o <;> simp [andThen]

theorem runInputs_append (xs ys : List Input) (s : State) :
    runInputs (xs ++ ys) s = andThen (runInputs xs s) (runInputs ys) := by
  induction xs generalizing s with
  | nil => rfl
  | cons x xs ih =>
    simp only [List.cons_append, runInputs]
    cases runInput x s <;> simp [andThen, ih]

/-- The bit layer only writes its own state, besides the event it delivers: a state that differs from
another in `bus` alone. -/
def SameButBus (s t : State) : Prop := t = { s with bus := t.bus }

/-- All that the timer can do at a clk edge. -/
theorem timerEdge_cases {p : Ports} {s t : State} (h : timerEdge p s = .next t) :
    (p.tick = false ∧ t = s) ∨
    (p.tick = true ∧ s.ir.carrierOn = true ∧ s.ir.tcnt + 1 = s.ir.cmpa ∧
      deliver .cmpA (setTcnt (s.ir.tcnt + 1) s) = .next t) ∨
    (p.tick = true ∧ s.ir.carrierOn = false ∧ s.ir.tcnt + 1 = s.ir.cmpb ∧
      deliver .cmpB s = .next t) ∨
    (p.tick = true ∧ (s.ir.carrierOn = true → s.ir.tcnt + 1 ≠ s.ir.cmpa) ∧
      (s.ir.carrierOn = false → s.ir.tcnt + 1 ≠ s.ir.cmpb) ∧ t = setTcnt (s.ir.tcnt + 1) s) := by
  unfold timerEdge at h
  split at h
  · rename_i hp
    split at h
    · rename_i hc
      refine .inr (.inl ⟨hp, hc.1, hc.2, ?_⟩)
      unfold compareA at h
      show (match decodeCmpA (setTcnt (s.ir.tcnt + 1) s).context with
        | .instr i => exec i (setTcnt (s.ir.tcnt + 1) s)
        | .rejected r => rejectEvent r (setTcnt (s.ir.tcnt + 1) s)) = .next t
      cases hd : decodeCmpA (setTcnt (s.ir.tcnt + 1) s).context with
      | instr i => rw [hd] at h; exact h
      | rejected r => rw [hd] at h; cases h
    · split at h
      · rename_i hc; exact .inr (.inr (.inl ⟨hp, hc.1, hc.2, h⟩))
      · rename_i ha hb
        refine .inr (.inr (.inr ⟨hp, fun x y => ha ⟨x, y⟩, fun x y => hb ⟨x, y⟩, ?_⟩))
        cases h; rfl
  · rename_i hp
    cases h
    exact .inl ⟨by simpa using hp, rfl⟩

/-- All that the bit layer can do at a clk edge: its own state only, or that and one serial event, after
which only `bitcnt` may still be set. -/
theorem serialEdge_cases {p : Ports} {s t : State} (h : serialEdge p s = .next t) :
    SameButBus s t ∨
    ∃ (e : Event) (b : BitLayer) (u : State), SerialEvent e ∧
      deliver e { s with bus := b } = .next u ∧ SameButBus u t := by
  unfold serialEdge at h
  split at h
  · exact .inr ⟨.start, _, t, ⟨by simp, by simp⟩, h, rfl⟩
  · exact .inr ⟨.stop, _, t, ⟨by simp, by simp⟩, h, rfl⟩
  · unfold risingClock at h
    split at h
    · split at h
      · exact .inr ⟨_, _, t, ⟨by simp, by simp⟩, h, rfl⟩
      · cases h; exact .inl rfl
    · split at h
      · split at h
        · obtain ⟨u, hu, hv⟩ := andThen_eq_next.1 h
          cases hv
          exact .inr ⟨_, _, u, ⟨by simp, by simp⟩, hu, rfl⟩
        · cases h; exact .inl rfl
      · cases h; exact .inl rfl
  · cases h
    left
    unfold fallingClock
    split
    · rfl
    · split
      · rfl
      · unfold beginByteFrame; split <;> rfl
  · cases h; exact .inl rfl

/-- A predicate that the bit layer's own state does not matter to and that every serial event keeps is
kept by the bit layer's part of a clk edge. -/
theorem serialEdge_keeps {P : State → Prop} (hbus : ∀ s b, P s → P { s with bus := b })
    (hev : ∀ e s t, SerialEvent e → P s → deliver e s = .next t → P t) {p : Ports} {s t : State}
    (hs : P s) (h : serialEdge p s = .next t) : P t := by
  rcases serialEdge_cases h with h | ⟨e, b, u, he, hu, hv⟩
  · rw [h]; exact hbus _ _ hs
  · rw [hv]; exact hbus _ _ (hev e _ _ he (hbus _ _ hs) hu)

/-- A predicate that every part of a clk edge keeps is kept by the edge, in both orders. -/
theorem clkEdge_keeps {P : State → Prop} (hreset : ∀ s, P s → P (resetState s))
    (htimer : ∀ p s t, P s → timerEdge p s = .next t → P t)
    (hserial : ∀ p s t, P s → serialEdge p s = .next t → P t) {p : Ports} {s t : State}
    (hs : P s) (h : clkEdge p s = .next t) : P t := by
  unfold clkEdge at h
  split at h
  · split at h
    · obtain ⟨u, hu, hv⟩ := andThen_eq_next.1 h
      exact hserial _ _ _ (htimer _ _ _ hs hu) hv
    · obtain ⟨u, hu, hv⟩ := andThen_eq_next.1 h
      exact htimer _ _ _ (hserial _ _ _ hs hu) hv
  · cases h; exact hreset _ hs

/-- All that a step can do: a clk edge, an asynchronous reset or one event, on the state with the input
taken. -/
theorem step_cases {s t : State} (h : step s = .next t) :
    ∃ (l : List Input) (n : Nat),
      (∃ p, clkEdge p { s with inputs := l, edges := n } = .next t) ∨
      t = resetState { s with inputs := l, edges := n } ∨
      (∃ e, deliver e { s with inputs := l, edges := n } = .next t) := by
  unfold step takeInput at h
  split at h
  · exact ⟨s.inputs, s.edges + 1, .inl ⟨_, h⟩⟩
  · rename_i i rest hi
    refine ⟨rest, s.edges, ?_⟩
    cases i with
    | clk p => exact .inl ⟨p, h⟩
    | asyncReset => cases h; exact .inr (.inl rfl)
    | event e => exact .inr (.inr ⟨e, h⟩)

/-- The invariant rule: a predicate that the queue does not matter to and that reset, the timer, the bit
layer and every delivered event keep is kept by every step. -/
theorem step_keeps {P : State → Prop} (hq : ∀ s l n, P s → P { s with inputs := l, edges := n })
    (hreset : ∀ s, P s → P (resetState s))
    (htimer : ∀ p s t, P s → timerEdge p s = .next t → P t)
    (hbus : ∀ s b, P s → P { s with bus := b })
    (hev : ∀ e s t, P s → deliver e s = .next t → P t) {s t : State}
    (hs : P s) (h : step s = .next t) : P t := by
  obtain ⟨l, n, ⟨p, h⟩ | h | ⟨e, h⟩⟩ := step_cases h
  · exact clkEdge_keeps hreset htimer
      (fun _ _ _ hs h => serialEdge_keeps hbus (fun e s t _ => hev e s t) hs h) (hq _ _ _ hs) h
  · rw [h]; exact hreset _ (hq _ _ _ hs)
  · exact hev _ _ _ (hq _ _ _ hs) h

end Sys2Proof.Machine
end

