-- ==== Sys2Proof/Laws/Events.lean ====
section
/-! SUPPORT. What each delivered timer event can do, once each; the scheduler step at the end of a slot and
at the end of a stop symbol; clk edges without a tick. -/

namespace Sys2Proof.Machine

/-- All that a delivered CMPA can do (`40_ir_frame_engine.md` R75, R77, R79). -/
theorem deliver_cmpA_cases {s t : State} (h : deliver .cmpA s = .next t) :
    s.ir.carrierOn = true ∧
    (((s.ir.tstate = .sendingStartMark ∨ s.ir.tstate = .sendingStopMark) ∧
        t = { s with ir := endMark (edgeSymbol s.cfg) s.ir }) ∨
      (s.ir.tstate = .sendingBit ∧ t = { s with ir := endMark (bitSymbol s.cfg s.ir.bitval) s.ir })) := by
  simp only [deliver, decode, decodeEvent, decodeCmpA] at h
  by_cases hc : s.context.carrierOn = true
  · simp only [hc, if_true] at h
    refine ⟨hc, ?_⟩
    cases ht : s.context.tstate <;> simp only [ht] at h <;> cases h
    · exact .inl ⟨.inl ht, rfl⟩
    · exact .inr ⟨ht, rfl⟩
    · exact .inl ⟨.inr ht, rfl⟩
  · simp only [hc] at h; cases h

/-- All that a delivered CMPB can do (`40_ir_frame_engine.md` R74, R76, R78, R80, R81). -/
theorem deliver_cmpB_cases {s t : State} (h : deliver .cmpB s = .next t) :
    s.ir.carrierOn = false ∧
    ((s.ir.tstate = .stopped ∧ t = startIfQueued (schedStep (beginSlot s))) ∨
     (s.ir.tstate = .starting ∧ t = { s with ir := beginFrame s.cfg s.ir }) ∨
     (s.ir.tstate = .sendingStartMark ∧
        t = { s with
          ir := beginMark s.cfg { latchBit s.ir with bitpos := 15, tstate := .sendingBit } }) ∨
     (s.ir.tstate = .sendingBit ∧ 0 < s.ir.bitpos ∧
        t = { s with ir := beginMark s.cfg { latchBit s.ir with bitpos := s.ir.bitpos - 1 } }) ∨
     (s.ir.tstate = .sendingBit ∧ ¬ 0 < s.ir.bitpos ∧
        t = { s with ir := beginMark s.cfg { s.ir with tstate := .sendingStopMark } }) ∨
     (s.ir.tstate = .sendingStopMark ∧ t = schedStep (endFrame s))) := by
  simp only [deliver, decode, decodeEvent, decodeCmpB] at h
  by_cases hc : s.context.carrierOn = true
  · simp only [hc, if_true] at h; cases h
  · have hc' : s.context.carrierOn = false := by simpa using hc
    simp only [hc', Bool.false_eq_true, if_false] at h
    refine ⟨hc', ?_⟩
    cases ht : s.context.tstate <;> simp only [ht] at h
    · cases h; exact .inl ⟨ht, rfl⟩
    · cases h; exact .inr (.inl ⟨ht, rfl⟩)
    · cases h; exact .inr (.inr (.inl ⟨ht, rfl⟩))
    · have h' : execTbBit s = .next t := h
      unfold execTbBit at h'
      split at h' <;> cases h'
      · exact .inr (.inr (.inr (.inl ⟨ht, by assumption, rfl⟩)))
      · exact .inr (.inr (.inr (.inr (.inl ⟨ht, by assumption, rfl⟩))))
    · cases h; exact .inr (.inr (.inr (.inr (.inr ⟨ht, rfl⟩))))

/-- TB.STOPPED in Stopped: a frame of the channel chosen starts, or the slot stays idle
(`40_ir_frame_engine.md` R81; `41_ir_scheduler.md` R94). -/
theorem tbStopped_cases (s : State) (h : s.ir.tstate = .stopped) :
    ∃ k,
      (bitOf s.reg.en k = true ∧ startIfQueued (schedStep (beginSlot s)) =
        { s with
          reg := { countdownUpdate s.cfg s.reg with cur := k, waiting := false }
          ir := beginFrame s.cfg { (beginSlot s).ir with
            shreg := frameWord s.cfg k (chanGet s.reg.pwm k), tstate := .starting } }) ∨
      (bitOf s.reg.en k = false ∧ startIfQueued (schedStep (beginSlot s)) =
        { s with
          reg := { countdownUpdate s.cfg s.reg with cur := k, waiting := true }
          ir := (beginSlot s).ir }) := by
  rcases schedStep_cases (beginSlot s) with ⟨h', _⟩ | ⟨_, k, hk, ⟨hb, e⟩ | ⟨hb, e⟩⟩
  · exact absurd h h'
  · refine ⟨k, .inl ⟨hb, ?_⟩⟩
    rw [e]; exact if_pos rfl
  · refine ⟨k, .inr ⟨hb, ?_⟩⟩
    rw [e]; exact if_neg (by show ¬ s.ir.tstate = _; simp [h])

/-- TB.STOPMARK: the trailing gap with a frame queued, or without (`40_ir_frame_engine.md` R80;
`41_ir_scheduler.md` R94). -/
theorem tbStopmark_cases (s : State) :
    ∃ k,
      (bitOf s.reg.en k = true ∧ schedStep (endFrame s) =
        { s with
          reg := { countdownUpdate s.cfg s.reg with cur := k, waiting := false }
          ir := { (endFrame s).ir with
            shreg := frameWord s.cfg k (chanGet s.reg.pwm k), tstate := .starting } }) ∨
      (bitOf s.reg.en k = false ∧ schedStep (endFrame s) =
        { s with
          reg := { countdownUpdate s.cfg s.reg with cur := k, waiting := true }
          ir := (endFrame s).ir }) := by
  rcases schedStep_cases (endFrame s) with ⟨h', _⟩ | ⟨_, k, hk, ⟨hb, e⟩ | ⟨hb, e⟩⟩
  · exact absurd rfl h'
  · exact ⟨k, .inl ⟨hb, e⟩⟩
  · exact ⟨k, .inr ⟨hb, e⟩⟩

/-- A frame queued starts in the IR engine only. -/
theorem startIfQueued_frame (s : State) :
    (startIfQueued s).reg = s.reg ∧ (startIfQueued s).ser = s.ser ∧ (startIfQueued s).bus = s.bus ∧
    (startIfQueued s).cfg = s.cfg ∧ (startIfQueued s).inputs = s.inputs ∧
    (startIfQueued s).edges = s.edges := by
  unfold startIfQueued; split <;> exact ⟨rfl, rfl, rfl, rfl, rfl, rfl⟩

/-- A clk edge with neither tick nor reset is the bit layer's part of it. -/
theorem clkEdge_without_tick (p : Ports) (s : State) (hr : p.rstN = true) (ht : p.tick = false) :
    clkEdge p s = serialEdge p s := by
  have h : ∀ s, timerEdge p s = .next s := fun s => by unfold timerEdge; rw [ht]; rfl
  unfold clkEdge
  rw [hr, if_pos rfl]
  split
  · rw [h]; rfl
  · cases serialEdge p s <;> simp [andThen, h]

/-- A falling clock edge without a tick (`42_serial_protocol.md` R103). -/
theorem clkEdge_clockLow (b : Bool) (s : State) (h : s.bus.sclQ = true) :
    clkEdge (clockLow b) s = .next (fallingClock (sampleLines (clockLow b) s)) := by
  rw [clkEdge_without_tick _ _ rfl rfl]
  simp [serialEdge, lineChange, clockLow, h]

/-- A low clock that stays low, without a tick: the lines are sampled (`42_serial_protocol.md` R100). -/
theorem clkEdge_clockLow_quiet (b : Bool) (s : State) (h : s.bus.sclQ = false) :
    clkEdge (clockLow b) s = .next (sampleLines (clockLow b) s) := by
  rw [clkEdge_without_tick _ _ rfl rfl]
  simp [serialEdge, lineChange, clockLow, h]

/-- A rising clock edge without a tick (`42_serial_protocol.md` R102). -/
theorem clkEdge_clockHigh (b : Bool) (s : State) (h : s.bus.sclQ = false) :
    clkEdge (clockHigh b) s = risingClock b (sampleLines (clockHigh b) s) := by
  rw [clkEdge_without_tick _ _ rfl rfl]
  simp [serialEdge, lineChange, clockHigh, h]

/-- One operation SCHED more (`41_ir_scheduler.md` R90). -/
theorem schedRun_succ (n : Nat) (s : State) :
    schedRun (n + 1) s = schedRun n (schedStep { s with ir := { s.ir with tstate := .stopped } }) := rfl

end Sys2Proof.Machine
end

