-- ==== Sys2Proof/Laws/PerInstr.lean ====
section
/-! SUPPORT. The family `Format`: the code of every instruction is of the kind that the format column of
`opcode_table.json` names, one lemma for each constructor. -/

namespace Sys2Proof.Laws

/-- The kinds of code behind the formats of `30_encoding.md` R51 to R58 and R66: ADDR, SEL and WDATA are a
received byte; EVENT is a bus condition or a compare match of the timer. -/
inductive CodeKind where
  | byte
  | ackBit
  | busCondition
  | compareMatch
  | muxAddress
  | word
  | internalCall
deriving DecidableEq, Repr

/-- The kind of a code. -/
def codeKind : Code → CodeKind
  | .event .start => .busCondition
  | .event .stop => .busCondition
  | .event (.rxByte _) => .byte
  | .event (.hack _) => .ackBit
  | .event .cmpA => .compareMatch
  | .event .cmpB => .compareMatch
  | .read _ => .muxAddress
  | .irWord _ => .word
  | .schedCall => .internalCall

/-- The kind of each row, by its format column. -/
def rowKind : Instr → CodeKind
  | .addrX _ _ | .addrW | .addrR | .selVersion | .selVendor | .selProduct | .selStatus
  | .selDisable | .selEnable | .selPwm0 | .selPwm1 | .selPwm2 | .selPwm3 | .selBad _
  | .wrStatus _ | .wrDisable _ | .wrEnable _ | .wrPwm0 _ | .wrPwm1 _ | .wrPwm2 _
  | .wrPwm3 _ | .wrRo _ => .byte
  | .rdVersion | .rdVendor | .rdProduct | .rdStatus | .rdPwm0 | .rdPwm1 | .rdPwm2
  | .rdPwm3 | .rdWo => .muxAddress
  | .hack | .hnack => .ackBit
  | .sStart | .sStop => .busCondition
  | .tbStopped | .tbStarting | .taStartmark | .tbStartmark | .taBit | .tbBit
  | .taStopmark | .tbStopmark => .compareMatch
  | .sched => .internalCall
  | .frame _ _ => .word

/-- The instruction's code has the kind of its row, whatever the configuration. -/
def Format.Statement (i : Instr) : Prop := ∀ c : Params, codeKind (encode c i) = rowKind i

theorem Format.addrX (addr : BitVec 7) (dir : Bool) : Format.Statement (.addrX addr dir) := fun _ => rfl
theorem Format.addrW : Format.Statement .addrW := fun _ => rfl
theorem Format.addrR : Format.Statement .addrR := fun _ => rfl
theorem Format.selVersion : Format.Statement .selVersion := fun _ => rfl
theorem Format.selVendor : Format.Statement .selVendor := fun _ => rfl
theorem Format.selProduct : Format.Statement .selProduct := fun _ => rfl
theorem Format.selStatus : Format.Statement .selStatus := fun _ => rfl
theorem Format.selDisable : Format.Statement .selDisable := fun _ => rfl
theorem Format.selEnable : Format.Statement .selEnable := fun _ => rfl
theorem Format.selPwm0 : Format.Statement .selPwm0 := fun _ => rfl
theorem Format.selPwm1 : Format.Statement .selPwm1 := fun _ => rfl
theorem Format.selPwm2 : Format.Statement .selPwm2 := fun _ => rfl
theorem Format.selPwm3 : Format.Statement .selPwm3 := fun _ => rfl
theorem Format.selBad (b : Byte) : Format.Statement (.selBad b) := fun _ => rfl
theorem Format.wrStatus (d : Byte) : Format.Statement (.wrStatus d) := fun _ => rfl
theorem Format.wrDisable (d : Byte) : Format.Statement (.wrDisable d) := fun _ => rfl
theorem Format.wrEnable (d : Byte) : Format.Statement (.wrEnable d) := fun _ => rfl
theorem Format.wrPwm0 (d : Byte) : Format.Statement (.wrPwm0 d) := fun _ => rfl
theorem Format.wrPwm1 (d : Byte) : Format.Statement (.wrPwm1 d) := fun _ => rfl
theorem Format.wrPwm2 (d : Byte) : Format.Statement (.wrPwm2 d) := fun _ => rfl
theorem Format.wrPwm3 (d : Byte) : Format.Statement (.wrPwm3 d) := fun _ => rfl
theorem Format.wrRo (d : Byte) : Format.Statement (.wrRo d) := fun _ => rfl
theorem Format.rdVersion : Format.Statement .rdVersion := fun _ => rfl
theorem Format.rdVendor : Format.Statement .rdVendor := fun _ => rfl
theorem Format.rdProduct : Format.Statement .rdProduct := fun _ => rfl
theorem Format.rdStatus : Format.Statement .rdStatus := fun _ => rfl
theorem Format.rdPwm0 : Format.Statement .rdPwm0 := fun _ => rfl
theorem Format.rdPwm1 : Format.Statement .rdPwm1 := fun _ => rfl
theorem Format.rdPwm2 : Format.Statement .rdPwm2 := fun _ => rfl
theorem Format.rdPwm3 : Format.Statement .rdPwm3 := fun _ => rfl
theorem Format.rdWo : Format.Statement .rdWo := fun _ => rfl
theorem Format.hack : Format.Statement .hack := fun _ => rfl
theorem Format.hnack : Format.Statement .hnack := fun _ => rfl
theorem Format.sStart : Format.Statement .sStart := fun _ => rfl
theorem Format.sStop : Format.Statement .sStop := fun _ => rfl
theorem Format.tbStopped : Format.Statement .tbStopped := fun _ => rfl
theorem Format.tbStarting : Format.Statement .tbStarting := fun _ => rfl
theorem Format.taStartmark : Format.Statement .taStartmark := fun _ => rfl
theorem Format.tbStartmark : Format.Statement .tbStartmark := fun _ => rfl
theorem Format.taBit : Format.Statement .taBit := fun _ => rfl
theorem Format.tbBit : Format.Statement .tbBit := fun _ => rfl
theorem Format.taStopmark : Format.Statement .taStopmark := fun _ => rfl
theorem Format.tbStopmark : Format.Statement .tbStopmark := fun _ => rfl
theorem Format.sched : Format.Statement .sched := fun _ => rfl
theorem Format.frame (ch : Chan) (p : Byte) : Format.Statement (.frame ch p) := fun _ => rfl

end Sys2Proof.Laws
end

