-- ==== Sys2Proof/Tests/Slice0.lean ====
section
/-! SUPPORT. Tests: expected values are those of `95_test_vectors.md` (V and S numbers) or read off the
encoding tables of `30_encoding.md`. After them one witness for the hypotheses of each statement that has
any. -/

namespace Sys2Proof.Tests

open Sys2Proof Sys2Proof.Machine

/-! ## Small states -/

/-- The example configuration. -/
abbrev tv : Params := Params.testVectors

/-- Just after reset. -/
def r0 : State := State.resetWith tv

/-- After reset but for the serial engine: its phase, selection and `armed`. -/
def serialAt (p : PState) (sel : Byte) (armed : Bool) : State :=
  { r0 with ser := { r0.ser with pstate := p, sel := sel, armed := armed } }

/-- `s` with the enable flags and the PWM bytes given. -/
def withReg (en : ChanMask) (pwm : Vector Byte 4) (s : State) : State :=
  { s with reg := { s.reg with en := en, pwm := pwm } }

/-- `s` in timer state `t`, carrier on or off. -/
def inTimer (t : TState) (on : Bool) (s : State) : State :=
  { s with ir := { s.ir with tstate := t, carrierOn := on } }

/-- One field of the next state. -/
def after {α : Type} (f : State → α) (o : Host.Outcome State Fault Refusal) : Option α :=
  match o with
  | .next s => some (f s)
  | .fault _ => none
  | .refused _ => none

/-- `(pstate, sel, armed)` and the answer, as V208 writes them. -/
def proto (s : State) : PState × Byte × Bool × Answer :=
  (s.ser.pstate, s.ser.sel, s.ser.armed, s.bus.ackres)

/-- `cur`, `waiting`, `tstate` and `shreg`, as V206 writes them. -/
def queue (s : State) : Chan × Bool × TState × CommandWord :=
  (s.reg.cur, s.reg.waiting, s.ir.tstate, s.ir.shreg)

/-- A registry for the scheduler's vectors. -/
def schedAt (cd : Vector Byte 4) (cur : Chan) (en : ChanMask) (pwm : Vector Byte 4) : State :=
  { r0 with reg := { r0.reg with countdown := cd, cur := cur, en := en, pwm := pwm } }

/-- An address byte is awaited. -/
def ctxAddr : Context := (serialAt .awaitingAddress 0xFF true).context

/-- A register select is awaited. -/
def ctxSel : Context := (serialAt .awaitingRegisterSelect 0xFF false).context

/-- Data for register `a` is awaited. -/
def ctxData (a : Byte) : Context := (serialAt .awaitingWriteData a false).context

/-- The timer's context. -/
def ctxIr (t : TState) (on : Bool) : Context := (inTimer t on r0).context

/-- The row that a received byte is. -/
def byteRow (x : Context) (b : Byte) : Decoded := decode tv x (.event (.rxByte b))

/-! ## Ill-formed terms are refused -/

theorem test_wf_addrX_own_address : (Instr.addrX 0b0000001 true).wellFormed tv = false := by decide
theorem test_wf_selBad_known_register : (Instr.selBad 0x42).wellFormed tv = false := by decide
theorem test_wf_frame_high_nibble : (Instr.frame 3 0xAF).wellFormed tv = false := by decide
theorem test_wf_operands_accepted :
    (Instr.addrX 0b0001000 true).wellFormed tv = true ∧ (Instr.selBad 0x41).wellFormed tv = true ∧
    (Instr.frame 3 0x0F).wellFormed tv = true := by decide

/-! ## Every row decoded from a word of the encoding tables (R51 to R58; example address 0000001) -/

theorem test_decode_addr :
    byteRow ctxAddr 0b00000010 = .instr .addrW ∧ byteRow ctxAddr 0b00000011 = .instr .addrR ∧
    byteRow ctxAddr 0b00010000 = .instr (.addrX 0b0001000 false) ∧
    byteRow ctxAddr 0b00010001 = .instr (.addrX 0b0001000 true) := by decide

theorem test_decode_sel_identity :
    byteRow ctxSel 0b00000000 = .instr .selVersion ∧ byteRow ctxSel 0b00001000 = .instr .selVendor ∧
    byteRow ctxSel 0b00010000 = .instr .selProduct := by decide

theorem test_decode_sel_control :
    byteRow ctxSel 0b01000010 = .instr .selStatus ∧ byteRow ctxSel 0b01000011 = .instr .selDisable ∧
    byteRow ctxSel 0b01000100 = .instr .selEnable := by decide

theorem test_decode_sel_pwm :
    byteRow ctxSel 0b01010000 = .instr .selPwm0 ∧ byteRow ctxSel 0b01010001 = .instr .selPwm1 ∧
    byteRow ctxSel 0b01010010 = .instr .selPwm2 ∧ byteRow ctxSel 0b01010011 = .instr .selPwm3 := by
  decide

/-- The refused select bytes of S4. -/
theorem test_decode_sel_bad :
    ∀ b ∈ ([0x01, 0x07, 0x09, 0x0F, 0x11, 0x17, 0x41, 0x45, 0x4F, 0x54, 0x80, 0xFF] : List Byte),
      byteRow ctxSel b = .instr (.selBad b) := by decide

theorem test_decode_wr_control :
    byteRow (ctxData 0x42) 0xF5 = .instr (.wrStatus 0xF5) ∧
    byteRow (ctxData 0x43) 0x06 = .instr (.wrDisable 0x06) ∧
    byteRow (ctxData 0x44) 0x05 = .instr (.wrEnable 0x05) := by decide

theorem test_decode_wr_pwm :
    byteRow (ctxData 0x50) 0x11 = .instr (.wrPwm0 0x11) ∧
    byteRow (ctxData 0x51) 0x9C = .instr (.wrPwm1 0x9C) ∧
    byteRow (ctxData 0x52) 0x03 = .instr (.wrPwm2 0x03) ∧
    byteRow (ctxData 0x53) 0xFF = .instr (.wrPwm3 0xFF) := by decide

theorem test_decode_wr_ro :
    ∀ a ∈ ([0x00, 0x08, 0x10] : List Byte), byteRow (ctxData a) 0x55 = .instr (.wrRo 0x55) := by decide

theorem test_decode_rd :
    decodeRead 0x00 = .instr .rdVersion ∧ decodeRead 0x08 = .instr .rdVendor ∧
    decodeRead 0x10 = .instr .rdProduct ∧ decodeRead 0x42 = .instr .rdStatus ∧
    decodeRead 0x50 = .instr .rdPwm0 ∧ decodeRead 0x51 = .instr .rdPwm1 ∧
    decodeRead 0x52 = .instr .rdPwm2 ∧ decodeRead 0x53 = .instr .rdPwm3 ∧
    decodeRead 0x43 = .instr .rdWo ∧ decodeRead 0x44 = .instr .rdWo := by decide

theorem test_decode_rd_unmapped : decodeRead 0x41 = .rejected .unmappedRead := by decide

theorem test_decode_ackbit :
    decode tv ctxSel (.event (.hack .ack)) = .instr .hack ∧
    decode tv ctxSel (.event (.hack .nack)) = .instr .hnack ∧
    decodeTableWord 1 0 = some .hack ∧ decodeTableWord 1 1 = some .hnack := by decide

theorem test_decode_bus :
    decode tv ctxSel (.event .start) = .instr .sStart ∧
    decode tv ctxSel (.event .stop) = .instr .sStop := by decide

theorem test_decode_cmpB :
    decode tv (ctxIr .stopped false) (.event .cmpB) = .instr .tbStopped ∧
    decode tv (ctxIr .starting false) (.event .cmpB) = .instr .tbStarting ∧
    decode tv (ctxIr .sendingStartMark false) (.event .cmpB) = .instr .tbStartmark ∧
    decode tv (ctxIr .sendingBit false) (.event .cmpB) = .instr .tbBit ∧
    decode tv (ctxIr .sendingStopMark false) (.event .cmpB) = .instr .tbStopmark := by decide

theorem test_decode_cmpA :
    decode tv (ctxIr .sendingStartMark true) (.event .cmpA) = .instr .taStartmark ∧
    decode tv (ctxIr .sendingBit true) (.event .cmpA) = .instr .taBit ∧
    decode tv (ctxIr .sendingStopMark true) (.event .cmpA) = .instr .taStopmark ∧
    decode tv (ctxIr .starting true) (.event .cmpA) = .rejected .cmpaOutsideMark := by decide

theorem test_decode_sched : decode tv ctxSel .schedCall = .instr .sched := by decide

/-- Words F2, F6 and F8 of V201; a word with bit 10 set is no command word. -/
theorem test_decode_frame :
    decodeTableWord 16 0b0100000101111101 = some (.frame 1 0x07) ∧
    decodeTableWord 16 0b0100001010000001 = some (.frame 2 0x08) ∧
    decodeTableWord 16 0b0100000111000110 = some (.frame 1 0x0C) ∧
    decodeTableWord 16 0b0100010111000110 = none := by decide

/-! ## Operations -/

/-- S11: `10/N` clears the selection. -/
theorem test_addrX : after proto (exec (.addrX 0b0001000 false) (serialAt .awaitingAddress 0x50 true)) =
    some (.awaitingAddress, 0xFF, false, .nack) := by decide

/-- S1 and S13. -/
theorem test_addrW :
    after proto (exec .addrW (serialAt .awaitingAddress 0xFF true)) =
      some (.awaitingRegisterSelect, 0xFF, false, .ack) ∧
    after proto (exec .addrW (serialAt .awaitingAddress 0x50 true)) =
      some (.awaitingWriteData, 0x50, false, .ack) := by decide

/-- S2: the status byte 0x45, cursor 0. -/
theorem test_addrR : after (fun t => (proto t, t.ser.cursor, t.ser.buf[0]))
    (exec .addrR (withReg 0b0101 #v[0, 0, 0, 0] (serialAt .awaitingAddress 0x42 true))) =
      some ((.streamingReadData, 0x42, false, .ack), 0, 0x45) := by decide

/-- S9 and S10. -/
theorem test_addrR_refused :
    ∀ a ∈ ([0xFF, 0x43, 0x44] : List Byte), after proto (exec .addrR (serialAt .awaitingAddress a true)) =
      some (.awaitingAddress, 0xFF, false, .nack) := by decide

/-- S4: the ten select bytes. -/
theorem test_sel : ∀ q ∈ ([(.selVersion, 0x00), (.selVendor, 0x08), (.selProduct, 0x10),
      (.selStatus, 0x42), (.selDisable, 0x43), (.selEnable, 0x44), (.selPwm0, 0x50), (.selPwm1, 0x51),
      (.selPwm2, 0x52), (.selPwm3, 0x53)] : List (Instr × Byte)),
    after proto (exec q.1 (serialAt .awaitingRegisterSelect 0xFF false)) =
      some (.awaitingWriteData, q.2, false, .ack) := by decide

/-- T1: `41/N`. -/
theorem test_selBad : after proto (exec (.selBad 0x41) (serialAt .awaitingRegisterSelect 0xFF false)) =
    some (.awaitingAddress, 0xFF, false, .nack) := by decide

/-- V209: writes of the enable flags. -/
theorem test_wr_enables :
    after (·.reg.en) (exec (.wrStatus 0xF5) (withReg 0b1010 #v[0, 0, 0, 0] r0)) = some 0b0101 ∧
    after (·.reg.en) (exec (.wrDisable 0x06) (withReg 0b1111 #v[0, 0, 0, 0] r0)) = some 0b1001 ∧
    after (·.reg.en) (exec (.wrEnable 0x04) (withReg 0b0001 #v[0, 0, 0, 0] r0)) = some 0b0101 := by
  decide

/-- S20: bits 7:4 of a mask are ignored. -/
theorem test_wr_enables_high_nibble :
    after (·.reg.en) (exec (.wrDisable 0xF0) (withReg 0b0110 #v[0, 0, 0, 0] r0)) = some 0b0110 ∧
    after (·.reg.en) (exec (.wrEnable 0xF0) (withReg 0b0110 #v[0, 0, 0, 0] r0)) = some 0b0110 := by
  decide

/-- V209: writes of the PWM bytes. -/
theorem test_wr_pwm :
    after (·.reg.pwm) (exec (.wrPwm0 0x3A) r0) = some #v[0x3A, 0, 0, 0] ∧
    after (·.reg.pwm) (exec (.wrPwm1 0x9C) r0) = some #v[0, 0x9C, 0, 0] ∧
    after (·.reg.pwm) (exec (.wrPwm2 0x03) r0) = some #v[0, 0, 0x03, 0] ∧
    after (·.reg.pwm) (exec (.wrPwm3 0xFF) r0) = some #v[0, 0, 0, 0xFF] := by decide

/-- S12: a write is single-shot. -/
theorem test_wr_ends : after proto (exec (.wrPwm0 0x11) (serialAt .awaitingWriteData 0x50 false)) =
    some (.awaitingAddress, 0xFF, false, .ack) := by decide

/-- S8. -/
theorem test_wrRo : after (fun t => (proto t, t.reg, t.cfg))
    (exec (.wrRo 0x55) (serialAt .awaitingWriteData 0x08 false)) =
      some ((.awaitingAddress, 0xFF, false, .nack), r0.reg, tv) := by decide

/-- V209: the identity strings. -/
theorem test_rd_identity :
    after (·.ser.buf) (exec .rdVersion r0) = some #v[0x56, 0x31, 0x2E, 0x30, 0x30, 0x20, 0x20, 0x20] ∧
    after (·.ser.buf) (exec .rdVendor r0) = some #v[0x41, 0x42, 0x43, 0x44, 0x45, 0x46, 0x47, 0x48] ∧
    after (·.ser.buf) (exec .rdProduct r0) = some #v[0x49, 0x52, 0x4C, 0x49, 0x4E, 0x4B, 0x20, 0x20] := by
  decide

/-- V209: the status byte. -/
theorem test_rdStatus :
    after (·.ser.buf[0]) (exec .rdStatus r0) = some 0x40 ∧
    after (·.ser.buf[0])
      (exec .rdStatus { r0 with reg := { r0.reg with en := 0b0101, cur := 2, waiting := false } }) =
        some 0x25 := by decide

/-- V209: the PWM bytes. -/
theorem test_rd_pwm :
    after (·.ser.buf[0]) (exec .rdPwm0 (withReg 0 #v[0xFF, 0x9C, 0x35, 0x0F] r0)) = some 0xFF ∧
    after (·.ser.buf[0]) (exec .rdPwm1 (withReg 0 #v[0xFF, 0x9C, 0x35, 0x0F] r0)) = some 0x9C ∧
    after (·.ser.buf[0]) (exec .rdPwm2 (withReg 0 #v[0xFF, 0x9C, 0x35, 0x0F] r0)) = some 0x35 ∧
    after (·.ser.buf[0]) (exec .rdPwm3 (withReg 0 #v[0xFF, 0x9C, 0x35, 0x0F] r0)) = some 0x0F := by
  decide

/-- S10: RD.WO. -/
theorem test_rdWo : after proto (exec .rdWo (serialAt .awaitingAddress 0x43 false)) =
    some (.awaitingAddress, 0xFF, false, .nack) := by decide

/-- Streaming from register `sel` at cursor `n`. -/
def streamAt (sel : Byte) (n : BitVec 3) : State :=
  { r0 with ser := { r0.ser with pstate := .streamingReadData, sel := sel, cursor := n } }

/-- S6 and S16: the cursor wraps in a string and stays in a one-byte register. -/
theorem test_hack :
    after (·.ser.cursor) (exec .hack (streamAt 0x08 7)) = some 0 ∧
    after (·.ser.cursor) (exec .hack (streamAt 0x08 2)) = some 3 ∧
    after (·.ser.cursor) (exec .hack (streamAt 0x50 0)) = some 0 := by decide

/-- S7: the abort keeps the cursor. -/
theorem test_hnack : after (fun t => (proto t, t.ser.cursor)) (exec .hnack (streamAt 0x08 2)) =
    some ((.awaitingAddress, 0xFF, false, .none), 2) := by decide

/-- S11 and S15: bus conditions keep the selection. -/
theorem test_bus :
    after proto (exec .sStart (serialAt .awaitingWriteData 0x42 false)) =
      some (.awaitingAddress, 0x42, true, .none) ∧
    after proto (exec .sStop (serialAt .awaitingWriteData 0x50 false)) =
      some (.awaitingAddress, 0x50, false, .none) := by decide

/-- V203, t = 0. -/
theorem test_tbStarting :
    after (fun t => (t.ir.tstate, t.ir.carrierOn, t.ir.tcnt, t.ir.cmpa, t.ir.zeros))
      (exec .tbStarting (inTimer .starting false r0)) =
        some (.sendingStartMark, true, 0, 6, 0) := by decide

/-- V203, t = 6 and t = 395. -/
theorem test_ta_edge :
    after (fun t => (t.ir.carrierOn, t.ir.cmpb)) (exec .taStartmark (inTimer .sendingStartMark true r0)) =
      some (false, 45) ∧
    after (fun t => (t.ir.carrierOn, t.ir.cmpb)) (exec .taStopmark (inTimer .sendingStopMark true r0)) =
      some (false, 45) := by decide

/-- Sending bit `pos` of a word, with the rest of the word in the shift register. -/
def bitAt (bit : Bool) (pos : BitVec 4) (zeros : BitVec 5) (rest : CommandWord) (on : Bool) : State :=
  { r0 with ir := { r0.ir with
    tstate := .sendingBit, bitval := bit, bitpos := pos, zeros := zeros, shreg := rest
    carrierOn := on, cmpa := 6, cmpb := if bit then 27 else 16 } }

/-- V203, t = 51 and t = 67. -/
theorem test_taBit :
    after (·.ir.cmpb) (exec .taBit (bitAt false 15 1 0x82FA true)) = some 16 ∧
    after (·.ir.cmpb) (exec .taBit (bitAt true 14 1 0x05F4 true)) = some 27 := by decide

/-- V203, t = 45. -/
theorem test_tbStartmark : after (fun t => (t.ir.shreg, t.ir.bitval, t.ir.bitpos, t.ir.zeros, t.ir.tstate))
    (exec .tbStartmark { r0 with ir := { r0.ir with tstate := .sendingStartMark, shreg := 0x417D } }) =
      some (0x82FA, false, 15, 1, .sendingBit) := by decide

/-- V203, t = 61 and t = 389. -/
theorem test_tbBit :
    after (fun t => (t.ir.shreg, t.ir.bitval, t.ir.bitpos, t.ir.zeros, t.ir.tstate))
      (exec .tbBit (bitAt false 15 1 0x82FA false)) = some (0x05F4, true, 14, 1, .sendingBit) ∧
    after (fun t => (t.ir.shreg, t.ir.bitval, t.ir.bitpos, t.ir.zeros, t.ir.tstate))
      (exec .tbBit (bitAt true 0 8 0x0000 false)) = some (0x0000, true, 0, 8, .sendingStopMark) := by
  decide

/-- In the stop symbol's gap with `z` zero bits sent, channel 1 enabled with PWM 0x07 (V212, tick 1042). -/
def stopGap (en : ChanMask) (z : BitVec 5) : State :=
  { schedAt #v[7, 9, 11, 13] 1 en #v[0, 0x07, 0, 0] with
    ir := { r0.ir with tstate := .sendingStopMark, zeros := z, cmpb := 45, tcnt := 44 } }

/-- V212, tick 1042, and V214 item 6. -/
theorem test_tbStopmark :
    after queue (exec .tbStopmark (stopGap 0b0010 8)) = some (1, false, .starting, 0x417D) ∧
    after queue (exec .tbStopmark (stopGap 0b0000 10)) = some (1, true, .stopped, 0x0000) := by decide

/-- V212, tick 1042, and V214 item 6: the trailing gap. -/
theorem test_tbStopmark_gap :
    after (·.ir.cmpb) (exec .tbStopmark (stopGap 0b0010 8)) = some 174 ∧
    after (·.ir.cmpb) (exec .tbStopmark (stopGap 0b0000 10)) = some 196 := by decide

/-- V212, tick 608, and H1. -/
theorem test_tbStopped :
    after queue (exec .tbStopped (withReg 0b0010 #v[0, 0x07, 0, 0] r0)) =
      some (1, false, .sendingStartMark, 0x417D) ∧
    after queue (exec .tbStopped r0) = some (0, true, .stopped, 0x0000) := by decide

/-- V212, tick 608, and H1: the countdown, the boundary and the carrier; V214 item 8: the end of a trailing
gap after which nothing was selected is step 5. -/
theorem test_tbStopped_slot :
    after (fun t => (t.reg.countdown, t.ir.cmpb)) (exec .tbStopped
      { schedAt #v[4, 6, 8, 10] 1 0 #v[0, 0x0C, 0, 0] with ir := { r0.ir with cmpb := 196 } }) =
        some (#v[3, 5, 7, 9], 608) ∧
    after (·.reg.countdown) (exec .tbStopped r0) = some #v[7, 9, 11, 13] ∧
    after (fun t => (t.ir.cmpb, t.ir.carrierOn)) (exec .tbStopped r0) = some (608, false) ∧
    after (fun t => (t.ir.cmpb, t.ir.carrierOn)) (exec .tbStopped (withReg 0b0010 #v[0, 0, 0, 0] r0)) =
      some (608, true) := by decide

/-- H2 and H5 of V206. -/
theorem test_sched :
    after queue (exec .sched (schedAt #v[1, 3, 5, 7] 1 0b0011 #v[0x0A, 0, 0, 0])) =
      some (0, false, .starting, 0x40A1) ∧
    after queue (exec .sched (schedAt #v[3, 5, 7, 9] 1 0b1000 #v[0, 0x0C, 0, 0])) =
      some (3, false, .starting, 0x4308) := by decide

/-- H2 of V206: the countdown. -/
theorem test_sched_countdown :
    after (·.reg.countdown) (exec .sched (schedAt #v[1, 3, 5, 7] 1 0b0011 #v[0x0A, 0, 0, 0])) =
      some #v[8, 2, 4, 6] := by decide

/-- V205, A1 to A11. -/
theorem test_nextChannel :
    nextChannel 1 0b0101 0b1111 = 2 ∧ nextChannel 2 0b0100 0b1111 = 2 ∧
    nextChannel 2 0b0101 0b1011 = 0 ∧ nextChannel 3 0b1001 0b1001 = 0 ∧
    nextChannel 0 0b0000 0b0001 = 0 ∧ nextChannel 0 0b0010 0b0001 = 0 ∧
    nextChannel 0 0b0000 0b0110 = 1 ∧ nextChannel 3 0b0000 0b0001 = 0 ∧
    nextChannel 1 0b0000 0b1000 = 3 ∧ nextChannel 2 0b1111 0b0000 = 2 ∧
    nextChannel 2 0b1011 0b1111 = 3 := by decide

/-- F3, F6 and F12 of V201. -/
theorem test_frame :
    after (·.ir.shreg) (exec (.frame 3 0xAF) r0) = some 0x43F7 ∧
    after (·.ir.shreg) (exec (.frame 2 0x18) r0) = some 0x4281 ∧
    frameWord { tv with marker := 0xF } 3 0xFF = 0xF3FC ∧
    frameWord { tv with marker := 0x8 } 3 0xFF = 0x83FB := by decide

/-- V202: the trailing gap. -/
theorem test_trailing :
    trailing tv 0 = 86 ∧ trailing tv 4 = 130 ∧ trailing tv 12 = 218 ∧ trailing tv 16 = 262 ∧
    trailing { tv with tMark := 4, tGap0 := 8, tGap1 := 16, tGaps := 32, tFrame := 500 } 3 = 132 := by
  decide

/-! ## Clk edges -/

/-- Port levels with no tick. -/
def lines (scl sda : Bool) : Ports := { rstN := true, tick := false, scl := scl, sdaIn := sda }

/-- A tick with the bus idle. -/
def tickPorts : Ports := { rstN := true, tick := true, scl := true, sdaIn := true }

/-- V210: after the eighth bit of a byte, the falling edge pulls the line for an ACK. -/
theorem test_ack_driven : after (·.bus.sdaOe)
    (clkEdge (lines false true) { r0 with bus := { r0.bus with bitcnt := 8, ackres := .ack } }) =
      some true := by decide

/-- V210: sending 0x9C, bit 7 released, then bit 6 pulled low. -/
theorem test_send_bits :
    after (fun t => (t.bus.sdaOe, t.bus.sreg, t.bus.dirtx)) (clkEdge (lines false true)
      { streamAt 0x51 0 with
        ser := { (streamAt 0x51 0).ser with buf := #v[0x9C, 0, 0, 0, 0, 0, 0, 0] }
        bus := { r0.bus with bitcnt := 9 } }) = some (false, 0x9C, true) ∧
    after (·.bus.sdaOe) (clkEdge (lines false true)
      { r0 with bus := { r0.bus with bitcnt := 1, sreg := 0x9C, dirtx := true } }) = some true := by
  decide

/-- V210: the ninth rising edge is the host's bit. -/
theorem test_host_ack_bit : after (fun t => (t.ser.pstate, t.bus.bitcnt)) (clkEdge (lines true true)
    { streamAt 0x51 0 with bus := { r0.bus with bitcnt := 8, dirtx := true, sclQ := false } }) =
      some (.awaitingAddress, 9) := by decide

/-- V210: a START after three bits drops them. -/
theorem test_start_drops_bits : after (fun t => (t.ser.armed, t.bus.bitcnt)) (clkEdge (lines true false)
    { r0 with bus := { r0.bus with bitcnt := 3 } }) = some (true, 0) := by decide

/-- X1 of V211: the CMPB that ends the stop symbol and the data byte 0x0C for register 0x51 on one edge. -/
def x1 (o : SimulOrder) : State :=
  { stopGap 0b0010 8 with
    cfg := { tv with simulOrder := o }
    ser := { r0.ser with pstate := .awaitingWriteData, sel := 0x51 }
    bus := { r0.bus with sreg := 0x06, bitcnt := 7, sclQ := false, sdaQ := false } }

/-- X1 of V211: both orders. -/
theorem test_simultaneous :
    after (fun t => (t.ir.shreg, chanGet t.reg.pwm 1))
      (clkEdge { rstN := true, tick := true, scl := true, sdaIn := false } (x1 .irFirst)) =
        some (0x417D, 0x0C) ∧
    after (fun t => (t.ir.shreg, chanGet t.reg.pwm 1))
      (clkEdge { rstN := true, tick := true, scl := true, sdaIn := false } (x1 .serialFirst)) =
        some (0x41C6, 0x0C) := by decide

/-- A reset on an edge (V211), and between edges (R180). -/
theorem test_reset_edge : clkEdge { tickPorts with rstN := false } (x1 .irFirst) =
    .next (State.resetWith (x1 .irFirst).cfg) ∧
    runInput .asyncReset (x1 .irFirst) = .next (State.resetWith (x1 .irFirst).cfg) := ⟨rfl, rfl⟩

/-! ## Witnesses: a state and operands that meet the hypotheses of each statement, clause by clause -/

/-- The second bit of the word 0x417D, just after its mark began (V203, t = 61). -/
def midBit : State := bitAt true 14 1 0x05F4 true

/-- The first bit of the word 0x417D, one tick before its end (V203, t = 60). -/
def endBit : State :=
  { bitAt false 15 1 0x82FA false with
    ir := { (bitAt false 15 1 0x82FA false).ir with tcnt := 15 } }

/-- The trailing gap of a frame of the word 0x417D, one tick before its end, the next frame queued (V203,
t = 607). -/
def endSlot : State :=
  { withReg 0b0010 #v[0, 0x07, 0, 0] r0 with
    ir := { r0.ir with tstate := .starting, shreg := 0x417D, cmpb := 174, tcnt := 173 } }

/-- `s` with inputs queued. -/
def queued (l : List Input) (s : State) : State := { s with inputs := l }

theorem witness_DecodeEncodeRoundTrip :
    (Instr.wrPwm1 0x9C).wellFormed tv = true ∧ (Instr.wrPwm1 0x9C).inContext (ctxData 0x51) = true ∧
    (Instr.addrX 0x08 true).wellFormed tv = true ∧
      (Instr.addrX 0x08 true).inContext ctxAddr = true ∧
    (Instr.taBit).wellFormed tv = true ∧ (Instr.taBit).inContext (ctxIr .sendingBit true) = true := by
  decide

theorem witness_DecodedRowsAreExact :
    decode tv (ctxData 0x51) (.event (.rxByte 0x9C)) = .instr (.wrPwm1 0x9C) ∧
    decode tv ctxSel (.read 0x44#8) = .instr .rdWo ∧
    decode tv ctxSel (.irWord 0x417D) = .instr (.frame 1 7) := by decide

theorem witness_SampleWordsDecode :
    tv.deviceAddress = 0b0000001 ∧ ctxAddr.pstate = .awaitingAddress ∧ ctxAddr.armed = true ∧
    (ctxData 0x43).pstate = .awaitingWriteData ∧ (ctxData 0x43).sel = 0x43#8 := by decide

theorem witness_StepRunsDecodedEvent :
    ∃ s : State, s.inputs = [.event (.rxByte 0x50)] ∧
      decode s.cfg s.context (.event (.rxByte 0x50)) = .instr .selPwm0 :=
  ⟨queued [.event (.rxByte 0x50)] (serialAt .awaitingRegisterSelect 0xFF false), by decide, by decide⟩

theorem witness_StepRunsFetchWord :
    decodeTableWord 8 (0x51 : Byte).toNat = some .selPwm1 ∧
    decodeTableWord 8 (0xFF : Byte).toNat = some (.selBad 0xFF) := by decide

theorem witness_TimerEdgeRunsHandlers_compareA :
    tickPorts.tick = true ∧ (bitAt true 14 1 0x05F4 true).ir.carrierOn = true ∧
    ({ midBit with ir := { midBit.ir with tcnt := 5 } } : State).ir.tcnt + 1 = midBit.ir.cmpa ∧
    decode tv midBit.context (.event .cmpA) = .instr .taBit := by decide

theorem witness_TimerEdgeRunsHandlers_compareB :
    endBit.ir.carrierOn = false ∧ endBit.ir.tcnt + 1 = endBit.ir.cmpb ∧
    decode endBit.cfg endBit.context (.event .cmpB) = .instr .tbBit := by decide

theorem witness_TimerEdgeRunsHandlers_count :
    (lines true true).tick = false ∧ tickPorts.tick = true ∧
    (r0.ir.carrierOn = true → r0.ir.tcnt + 1 ≠ r0.ir.cmpa) ∧
    (r0.ir.carrierOn = false → r0.ir.tcnt + 1 ≠ r0.ir.cmpb) := by decide

theorem witness_BusConditionsRunHandlers :
    r0.bus.sclQ = true ∧ (lines true false).scl = true ∧ r0.bus.sdaQ = true ∧
    (lines true false).sdaIn = false ∧
    ({ r0.bus with sdaQ := false } : BitLayer).sdaQ = false ∧ (lines true true).sdaIn = true := by
  decide

theorem witness_ClkEdgeOrder_irFirst :
    (x1 .irFirst).cfg.simulOrder = .irFirst ∧
    ∃ t u, timerEdge tickPorts (x1 .irFirst) = .next t ∧ serialEdge tickPorts t = .next u :=
  ⟨rfl, _, _, rfl, rfl⟩

theorem witness_ClkEdgeOrder_serialFirst :
    (x1 .serialFirst).cfg.simulOrder = .serialFirst ∧
    ∃ t u, serialEdge tickPorts (x1 .serialFirst) = .next t ∧ timerEdge tickPorts t = .next u :=
  ⟨rfl, _, _, rfl, rfl⟩

theorem witness_ClkEdgeOrder_reset : ({ tickPorts with rstN := false } : Ports).rstN = false := rfl

theorem witness_AddrRLoadsBuffer :
    (serialAt .awaitingAddress 0x08 true).ser.sel ≠ tv.sentinel ∧
    readable (serialAt .awaitingAddress 0x08 true).ser.sel = true := by decide

theorem witness_AddrRIsRefused :
    (serialAt .awaitingAddress 0xFF true).ser.sel = tv.sentinel ∧
    readable (serialAt .awaitingAddress 0x43 true).ser.sel = false := by decide

theorem witness_AddrRRunsReadRow :
    tv.SentinelValid ∧ (0x42#8 : Byte) ∈ whitelist ∧ readable 0x42#8 = true ∧
    (0x44#8 : Byte) ∈ whitelist ∧ readable 0x44#8 = false := by decide

theorem witness_HackAdvancesCursor :
    (streamAt 0x08 7).ser.pstate = .streamingReadData ∧ r0.ser.pstate ≠ .streamingReadData := by
  decide

theorem witness_HnackAborts :
    (streamAt 0x50 0).ser.pstate = .streamingReadData ∧ r0.ser.pstate ≠ .streamingReadData := by
  decide

theorem witness_TbStoppedPollsRegistry : r0.ir.tstate = .stopped := rfl

theorem witness_SchedSelectsOnlyWhenStopped :
    r0.ir.tstate = .stopped ∧ midBit.ir.tstate ≠ .stopped := by decide

theorem witness_TrailingGapCompletesFrame : tv.TimingValid ∧ 0 ≤ 16 ∧ 16 ≤ 16 := by decide

theorem witness_ArbiterServesDueChannels :
    r0.ir.tstate = .stopped ∧ r0.reg.en = 0 ∧
    (schedAt #v[1, 3, 5, 7] 1 0b0011 #v[0, 0, 0, 0]).ir.tstate = .stopped ∧
    (schedAt #v[1, 3, 5, 7] 1 0b0011 #v[0, 0, 0, 0]).reg.en ≠ 0 ∧ (0 : Chan) ≠ 1 ∧
    bitOf 0b0011 0 = true ∧
    chanGet (schedAt #v[1, 3, 5, 7] 1 0b0011 #v[0, 0, 0, 0]).reg.countdown 0 = 1 := by decide

/-- The registry of the fairness scenario, with the last channel current. -/
def fairness : State := schedAt #v[8, 10, 12, 14] 3 0b1111 #v[1, 2, 3, 4]

theorem witness_ArbiterServesDueChannels_fairness :
    fairness.cfg.period = #v[8, 10, 12, 14] ∧ fairness.reg.countdown = #v[8, 10, 12, 14] ∧
    fairness.reg.en = 0b1111 ∧ after (·.reg.cur) (schedRun 8 fairness) = some 0 ∧
    after (·.reg.cur) (schedRun 14 fairness) = some 3 := by decide

theorem witness_NextChannelInCyclicOrder :
    (0b0101 : ChanMask) &&& 0b1111 ≠ 0 ∧
    ((0b0010 : ChanMask) &&& 0b0001 = 0 ∧ bitOf 0b0001 0 = true) ∧
    ((0b0000 : ChanMask) &&& 0b0110 = 0 ∧ bitOf 0b0110 0 = false ∧ (0b0110 : ChanMask) ≠ 0) ∧
    ((0b1111 : ChanMask) &&& 0b0000 = 0 ∧ bitOf 0b0000 2 = false ∧
      nextChannel 2 0b1111 0b0000 = 2) := by
  decide

theorem witness_CountdownIsPeriodic : tv.PeriodValid ∧ r0.reg.countdown = tv.period := by decide

/-- The timer's invariant within a mark. -/
theorem midBit_timerInv : TimerInv midBit :=
  ⟨⟨by decide, by decide, by decide⟩, by decide,
    show 6 = 6 ∧ 0 < 6 by decide⟩

/-- The timer's invariant at the end of a bit's gap. -/
theorem endBit_timerInv : TimerInv endBit :=
  ⟨⟨by decide, by decide, by decide⟩, by decide,
    show 16 = 16 ∧ 15 < 16 by decide⟩

/-- The timer's invariant at the end of a slot. -/
theorem endSlot_timerInv : TimerInv endSlot :=
  ⟨⟨by decide, by decide, by decide⟩, by decide,
    show 174 ≤ 608 ∧ 173 < 174 by decide⟩

theorem witness_StepKeepsProtocolInv :
    ProtocolInv (serialAt .awaitingWriteData 0x50 false) ∧
    ∃ t, step (queued [.event (.rxByte 0x11)] (serialAt .awaitingWriteData 0x50 false)) = .next t :=
  ⟨⟨by decide, by decide, by decide, by decide, by decide⟩, _, rfl⟩

theorem witness_StepKeepsCountdownInv :
    tv.PeriodValid ∧ CountdownInv endSlot ∧
    ∃ t, step (queued [.clk tickPorts] endSlot) = .next t :=
  ⟨by decide, fun k => by revert k; decide, _, rfl⟩

theorem witness_StepKeepsWaitingInv :
    WaitingInv r0 ∧ ∃ t, step (queued [.event .cmpB] (withReg 0b0010 #v[0, 0x07, 0, 0] r0)) = .next t :=
  ⟨⟨fun _ => rfl, fun _ => rfl⟩, _, rfl⟩

theorem witness_StepKeepsTimerInv :
    tv.TimingValid ∧ TimerInv (queued [.clk tickPorts] endBit) ∧
    ∃ t, step (queued [.clk tickPorts] endBit) = .next t :=
  ⟨by decide, endBit_timerInv, _, rfl⟩

theorem witness_StepKeepsZeroCountInv :
    ZeroCountInv (queued [.clk tickPorts] endBit) ∧
    ∃ t, step (queued [.clk tickPorts] endBit) = .next t :=
  ⟨⟨endBit_timerInv.1, show InZeroRange (1 + topZeros 15 0x82FA) from ⟨by decide, by decide⟩⟩, _, rfl⟩

theorem witness_StepKeepsConfiguration :
    ∃ t, step (queued [.clk tickPorts] endSlot) = .next t := ⟨_, rfl⟩

theorem witness_InvariantsHoldAtReset : tv.Valid := by decide

theorem witness_SerialEventsLeaveInfrared : SerialEvent (.rxByte 0x02) := ⟨by decide, by decide⟩

theorem witness_TimerEventsLeaveSerial :
    ¬ SerialEvent .cmpB ∧ ∃ t, deliver .cmpB endBit = .next t := ⟨fun h => h.2 rfl, _, rfl⟩

theorem witness_SimultaneousHandlersCommute :
    tickPorts.tick = true ∧ endBit.ir.carrierOn = false ∧ endBit.ir.tcnt + 1 = endBit.ir.cmpb ∧
    endBit.ir.tstate ≠ .stopped ∧ endBit.ir.tstate ≠ .sendingStopMark := by decide

/-- Three inputs that complete, at the places the hypotheses allow, and the two that are refused. -/
theorem witness_OnlyUnraisableTimerEventsStop :
    TimerInv midBit ∧ midBit.ir.carrierOn = true ∧ (∃ t, runInput (.event .cmpA) midBit = .next t) ∧
    TimerInv endBit ∧ endBit.ir.carrierOn = false ∧ (∃ t, runInput (.event .cmpB) endBit = .next t) ∧
    (∃ t, runInput (.clk tickPorts) endBit = .next t) :=
  ⟨midBit_timerInv, rfl, ⟨_, rfl⟩, endBit_timerInv, rfl, ⟨_, rfl⟩, ⟨_, rfl⟩⟩

theorem test_unraisable_refused :
    runInput (.event .cmpA) endBit = .refused .timerEventNotRaised ∧
    runInput (.event .cmpB) midBit = .refused .timerEventNotRaised := ⟨rfl, rfl⟩

theorem witness_EventsWithNoRow :
    r0.ir.tstate = .stopped ∧ endSlot.ir.tstate = .starting ∧
    (r0.ser.pstate = .awaitingAddress ∧ r0.ser.armed = false) ∧
    (streamAt 0x08 0).ser.pstate = .streamingReadData := by decide

theorem witness_FrameInFlightIsNeverChanged :
    Sending 0x417D (queued [.clk tickPorts] endBit).ir ∧
    ∃ t, step (queued [.clk tickPorts] endBit) = .next t :=
  ⟨⟨by decide, by decide⟩, _, rfl⟩

theorem witness_TickAdvancesSlotTime :
    tv.TimingValid ∧ TimerInv midBit ∧ TimerInv endSlot ∧ tickPorts.rstN = true ∧
    (lines true true).rstN = true :=
  ⟨by decide, midBit_timerInv, endSlot_timerInv, rfl, rfl⟩

theorem witness_SlotTakesFrameTime :
    tv.TimingValid ∧ TimerInv endBit ∧ ∀ p ∈ [tickPorts, lines true true, tickPorts], p.rstN = true :=
  ⟨by decide, endBit_timerInv, by decide⟩

theorem witness_StartMarksOnlyAtSlotStart :
    tv.TimingValid ∧ TimerInv endSlot ∧ endSlot.ir.tstate ≠ .sendingStartMark ∧
    ∃ t, clkEdge tickPorts endSlot = .next t ∧ t.ir.tstate = .sendingStartMark :=
  ⟨by decide, endSlot_timerInv, by decide, _, rfl, rfl⟩

/-- A byte is awaited; the bit layer at bit count `n`, the last clock level and the answer as given. -/
def wireAt (n : BitVec 4) (scl : Bool) (a : Answer) : State :=
  { serialAt .awaitingRegisterSelect 0xFF false with
    bus := { r0.bus with bitcnt := n, sclQ := scl, ackres := a } }

theorem witness_WireByteIsRxByte :
    ((wireAt 0 true .none).bus.bitcnt = 0 ∧ (wireAt 0 true .none).bus.dirtx = false) ∧
    ((wireAt 0 false .none).bus.bitcnt = 0 ∧ (wireAt 0 false .none).bus.dirtx = false) ∧
    ((wireAt 9 true .ack).bus.bitcnt = 9 ∧ (wireAt 9 true .ack).bus.sclQ = true ∧
      (wireAt 9 true .ack).ser.pstate ≠ .streamingReadData) ∧
    ((wireAt 8 true .ack).bus.bitcnt = 8 ∧ (wireAt 8 true .ack).bus.dirtx = false ∧
      (wireAt 8 true .ack).bus.sclQ = true) ∧
    ((wireAt 8 false .nack).bus.bitcnt = 8 ∧ (wireAt 8 false .nack).bus.dirtx = false ∧
      (wireAt 8 false .nack).bus.sclQ = false) := by decide

/-- S4 on the wires: a select byte after another byte's ninth clock. -/
theorem test_wire_select : after proto (runPorts (bytePorts 0x51) (wireAt 9 true .ack)) =
    some (.awaitingWriteData, 0x51, false, .ack) := by decide

/-- Streaming, at the end of a byte's ninth clock. -/
def sendNext : State := { streamAt 0x51 0 with bus := { r0.bus with bitcnt := 9 } }

theorem witness_SentByteOnWires :
    sendNext.ser.pstate = .streamingReadData ∧ sendNext.bus.bitcnt = 9 ∧ sendNext.bus.sclQ = true ∧
    ([] : List (Bool × Bool)).length ≤ 8 ∧ (List.replicate 7 (true, true)).length ≤ 8 ∧
    (List.replicate 8 (true, true)).length = 8 := by decide

/-- V210: after the eighth data slot the line is released at bit count 8. -/
theorem test_wire_sent : after (fun t => (t.bus.bitcnt, t.bus.sdaOe, t.ser.pstate))
    (runPorts (sendPorts true (List.replicate 8 (true, true))) sendNext) =
      some (8, false, .streamingReadData) := by decide

theorem witness_PwmWriteReadsBack : r0.cfg.SentinelValid ∧ r0.ser.sel = r0.cfg.sentinel := by decide

/-- T4 of V200: `WRITE 0x51, 0x9C` then `READ1 0x51 -> 9C`. -/
theorem test_pwm_round_trip :
    after readData (runEvents [.start, .rxByte 0x02, .rxByte 0x51, .rxByte 0x9C, .stop,
      .start, .rxByte 0x02, .rxByte 0x51, .start, .rxByte 0x03] r0) = some 0x9C := by decide

theorem witness_StreamedReadWraps :
    (serialAt .awaitingAddress 0x08 true).ser.sel ≠ tv.sentinel ∧
    readable (serialAt .awaitingAddress 0x08 true).ser.sel = true ∧
    (serialAt .awaitingAddress 0x08 true).ser.pstate = .awaitingAddress ∧
    (serialAt .awaitingAddress 0x08 true).ser.armed = true := by decide

theorem witness_UnmappedSelectIsRefused :
    r0.ser.sel = r0.cfg.sentinel ∧ (0x41#8 : Byte) ∉ whitelist := by decide

end Sys2Proof.Tests
end

section
/-! PROOFS. Which input a step runs, and what a delivered event runs. -/

namespace Sys2Proof.Machine

/-- The input taken is the head of the queue (log 1). -/
theorem takeInput_of_inputs_cons {s : State} {i : Input} {rest : List Input}
    (hq : s.inputs = i :: rest) : takeInput s = (i, { s with inputs := rest }) := by
  rw [takeInput, hq]

/-- A step with inputs queued runs the first of them and takes only that one (log 1). -/
theorem step_of_inputs_cons {s : State} {i : Input} {rest : List Input}
    (hq : s.inputs = i :: rest) : step s = runInput i { s with inputs := rest } := by
  rw [step, takeInput_of_inputs_cons hq]

/-- An event that decodes to an instruction runs it, with nothing around `exec` (R9, R40). -/
theorem deliver_of_decode_instr {s : State} {e : Event} {i : Instr}
    (hd : decode s.cfg s.context (.event e) = .instr i) : deliver e s = exec i s := by
  rw [deliver, hd]

/-- The decoder's context does not read the input queue (log 1). -/
@[simp] theorem context_with_inputs (s : State) (l : List Input) :
    State.context { s with inputs := l } = s.context := rfl

/-- Settles O4: the step takes the event off the queue, which the decoder does not read, so the event
delivered decodes as it did before it was taken. -/
theorem stepRunsDecodedEvent : Obligations.StepRunsDecodedEvent := by
  intro s e rest i hq hd
  have hd' : decode s.cfg (State.context { s with inputs := rest }) (.event e) = .instr i := by
    rw [context_with_inputs, hd]
  calc step s = runInput (.event e) { s with inputs := rest } := step_of_inputs_cons hq
    _ = deliver e { s with inputs := rest } := rfl
    _ = exec i { s with inputs := rest } := deliver_of_decode_instr hd'

end Sys2Proof.Machine
end

section
/-! PROOFS. What a delivered event may write: a serial event the serial engine, the bit layer, `en` and
`pwm`; a timer event the IR engine and the registry's other fields (`10_state.md` R29). -/

namespace Sys2Proof.Machine

/-! ## Serial events -/

/-- The IR engine, `countdown`, `cur`, `waiting` and the environment are unchanged: all that a serial event
may write is the serial engine, the bit layer, `en` and `pwm` (`10_state.md` R29; `43_serial_registers.md`
R140). -/
def InfraredKept (s t : State) : Prop :=
  t.ir = s.ir ∧ t.reg = { s.reg with en := t.reg.en, pwm := t.reg.pwm } ∧ EnvKept s t

/-- An operation that leaves the whole registry alone meets the frame of the serial events. -/
theorem infraredKept_of_onlySerial {s t : State} (h : OnlySerial s t) : InfraredKept s t := by
  obtain ⟨hreg, hir, henv⟩ := h
  exact ⟨hir, by rw [hreg], henv⟩

/-- A state written in the serial engine and the bit layer alone. -/
theorem onlySerial_of_writes (s : State) (e : SerialEngine) (b : BitLayer) :
    OnlySerial s { s with ser := e, bus := b } := ⟨rfl, rfl, rfl, rfl, rfl⟩

theorem answer_onlySerial (s : State) (a : Answer) : OnlySerial s (s.answer a) :=
  onlySerial_of_writes s _ _

theorem violation_onlySerial (c : Cause) (s : State) : OnlySerial s (violation c s) :=
  onlySerial_of_writes s _ _

theorem selectRegister_onlySerial (a : Byte) (s : State) : OnlySerial s (selectRegister a s) :=
  onlySerial_of_writes s _ _

/-- An accepted write reaches the registry, but only `en` and `pwm` (`43_serial_registers.md` R140). -/
theorem writeRegister_infraredKept (a d : Byte) (s : State) : InfraredKept s (writeRegister a d s) :=
  ⟨rfl, memWrite_pwm_only a d s.reg, rfl, rfl, rfl⟩

/-- The address byte completes in all its rows (`42_serial_protocol.md` R109 to R111). -/
theorem exec_decodeAddr_onlySerial (c : Params) (b : Byte) (s : State) :
    ∃ t, exec (decodeAddr c b) s = .next t ∧ OnlySerial s t := by
  have hW : ∃ t, execAddrW s = .next t ∧ OnlySerial s t := by
    unfold execAddrW; split <;> exact ⟨_, rfl, onlySerial_of_writes s _ _⟩
  have hR : ∃ t, execAddrR s = .next t ∧ OnlySerial s t := by
    unfold execAddrR; split_ifs <;> exact ⟨_, rfl, onlySerial_of_writes s _ _⟩
  unfold decodeAddr
  split_ifs
  · exact hR
  · exact hW
  · exact ⟨_, rfl, violation_onlySerial .addrMismatch (disarm s)⟩

/-- A select byte selects its register or is refused (`42_serial_protocol.md` R112). -/
theorem exec_decodeSel_onlySerial (b : Byte) (s : State) :
    ∃ t, exec (decodeSel b) s = .next t ∧ OnlySerial s t := by
  unfold decodeSel
  split_ifs
  case neg => exact ⟨_, rfl, violation_onlySerial .badRegister s⟩
  all_goals exact ⟨_, rfl, selectRegister_onlySerial _ s⟩

/-- A data byte is written to its register or refused (`42_serial_protocol.md` R113). -/
theorem exec_decodeWData_infraredKept (a d : Byte) (s : State) :
    ∃ t, exec (decodeWData a d) s = .next t ∧ InfraredKept s t := by
  unfold decodeWData
  split_ifs
  case neg => exact ⟨_, rfl, infraredKept_of_onlySerial (violation_onlySerial .writeReadOnly s)⟩
  all_goals exact ⟨_, rfl, writeRegister_infraredKept _ d s⟩

/-- The host's acknowledgment bit (`42_serial_protocol.md` R115 to R117). -/
theorem exec_decodeAck_onlySerial (a : HostAck) (s : State) :
    ∃ t, exec (decodeAck a) s = .next t ∧ OnlySerial s t := by
  cases a with
  | ack =>
    show ∃ t, execHack s = .next t ∧ OnlySerial s t
    unfold execHack; split <;> exact ⟨_, rfl, onlySerial_of_writes s _ _⟩
  | nack =>
    show ∃ t, execHnack s = .next t ∧ OnlySerial s t
    unfold execHnack; split <;> exact ⟨_, rfl, onlySerial_of_writes s _ _⟩

/-- A received byte completes in every state of the protocol (`42_serial_protocol.md` R107, R108, R117). -/
theorem deliver_rxByte_infraredKept (b : Byte) (s : State) :
    ∃ t, deliver (.rxByte b) s = .next t ∧ InfraredKept s t := by
  have ignored : InfraredKept s (s.answer .none) := infraredKept_of_onlySerial (answer_onlySerial s .none)
  simp only [deliver, decode, decodeEvent, decodeByte]
  cases s.context.pstate with
  | awaitingAddress =>
    cases s.context.armed with
    | true =>
      obtain ⟨t, ht, hk⟩ := exec_decodeAddr_onlySerial s.cfg b s
      exact ⟨t, ht, infraredKept_of_onlySerial hk⟩
    | false => exact ⟨_, rfl, ignored⟩
  | awaitingRegisterSelect =>
    obtain ⟨t, ht, hk⟩ := exec_decodeSel_onlySerial b s
    exact ⟨t, ht, infraredKept_of_onlySerial hk⟩
  | awaitingWriteData => exact exec_decodeWData_infraredKept s.context.sel b s
  | streamingReadData => exact ⟨_, rfl, ignored⟩

/-- Every serial event completes, in every state, and keeps to what a serial event may write. -/
theorem deliver_serial_completes {e : Event} (he : SerialEvent e) (s : State) :
    ∃ t, deliver e s = .next t ∧ InfraredKept s t := by
  cases e with
  | start => exact ⟨_, rfl, infraredKept_of_onlySerial (onlySerial_of_writes s _ _)⟩
  | stop => exact ⟨_, rfl, infraredKept_of_onlySerial (onlySerial_of_writes s _ _)⟩
  | rxByte b => exact deliver_rxByte_infraredKept b s
  | hack a =>
    obtain ⟨t, ht, hk⟩ := exec_decodeAck_onlySerial a s
    exact ⟨t, ht, infraredKept_of_onlySerial hk⟩
  | cmpA => exact absurd rfl he.1
  | cmpB => exact absurd rfl he.2

/-- The next state of a serial event, seen from the step that reached it. -/
theorem deliver_serial_infraredKept {e : Event} {s t : State} (he : SerialEvent e)
    (h : deliver e s = .next t) : InfraredKept s t := by
  obtain ⟨u, hu, hk⟩ := deliver_serial_completes he s
  cases hu.symm.trans h
  exact hk

/-! ## Timer events -/

theorem not_serialEvent_iff {e : Event} : ¬ SerialEvent e ↔ e = .cmpA ∨ e = .cmpB := by
  unfold SerialEvent; tauto

/-- A boundary inside a slot: the registry is unchanged and the frame engine stays stopped or stays
running. -/
def WithinSlot (s t : State) : Prop :=
  t.reg = s.reg ∧ (t.ir.tstate = .stopped ↔ s.ir.tstate = .stopped)

/-- A handler that writes the IR engine alone, and neither enters nor leaves Stopped. -/
theorem withinSlot_of_irWrite {s : State} {e : IrEngine}
    (h : e.tstate = .stopped ↔ s.ir.tstate = .stopped) :
    OnlyInfrared s { s with ir := e } ∧ WithinSlot s { s with ir := e } :=
  ⟨⟨rfl, rfl, rfl, rfl, rfl⟩, rfl, h⟩

/-- The registry after a scheduler step that selects: one countdown update, the channel chosen, and
`waiting` set exactly when the frame engine is left in Stopped (`41_ir_scheduler.md` R91, R94). -/
def SlotScheduled (s t : State) : Prop :=
  ∃ (k : Chan) (w : Bool), t.reg = { countdownUpdate s.cfg s.reg with cur := k, waiting := w } ∧
    (w = true ↔ t.ir.tstate = .stopped)

/-- The end of a slot or of an idle slot runs the scheduler (`40_ir_frame_engine.md` R81). -/
theorem tbStopped_slotScheduled {s : State} (hst : s.ir.tstate = .stopped) :
    OnlyInfrared s (startIfQueued (schedStep (beginSlot s))) ∧
      SlotScheduled s (startIfQueued (schedStep (beginSlot s))) := by
  obtain ⟨k, ⟨_, ht⟩ | ⟨_, ht⟩⟩ := tbStopped_cases s hst <;> rw [ht]
  · exact ⟨⟨rfl, rfl, rfl, rfl, rfl⟩, k, false, rfl, by simp⟩
  · exact ⟨⟨rfl, rfl, rfl, rfl, rfl⟩, k, true, rfl, by simp [hst]⟩

/-- The end of a stop symbol runs the scheduler (`40_ir_frame_engine.md` R80). -/
theorem tbStopmark_slotScheduled (s : State) :
    OnlyInfrared s (schedStep (endFrame s)) ∧ SlotScheduled s (schedStep (endFrame s)) := by
  obtain ⟨k, ⟨_, ht⟩ | ⟨_, ht⟩⟩ := tbStopmark_cases s <;> rw [ht]
  · exact ⟨⟨rfl, rfl, rfl, rfl, rfl⟩, k, false, rfl, by simp⟩
  · exact ⟨⟨rfl, rfl, rfl, rfl, rfl⟩, k, true, rfl, by simp⟩

/-- All that a timer event does outside the IR engine: nothing, or the scheduler step of a slot. -/
theorem deliver_timer_cases {e : Event} {s t : State} (he : ¬ SerialEvent e)
    (h : deliver e s = .next t) : OnlyInfrared s t ∧ (WithinSlot s t ∨ SlotScheduled s t) := by
  rcases not_serialEvent_iff.1 he with rfl | rfl
  · obtain ⟨_, ⟨_, rfl⟩ | ⟨_, rfl⟩⟩ := deliver_cmpA_cases h
    all_goals exact (withinSlot_of_irWrite Iff.rfl).imp_right .inl
  · obtain ⟨_, ⟨hst, rfl⟩ | ⟨hst, rfl⟩ | ⟨hst, rfl⟩ | ⟨hst, _, rfl⟩ | ⟨hst, _, rfl⟩ | ⟨_, rfl⟩⟩ :=
      deliver_cmpB_cases h
    · exact (tbStopped_slotScheduled hst).imp_right .inr
    · exact (withinSlot_of_irWrite (by simp [hst])).imp_right .inl
    · exact (withinSlot_of_irWrite (by simp [hst])).imp_right .inl
    · exact (withinSlot_of_irWrite (by simp [hst])).imp_right .inl
    · exact (withinSlot_of_irWrite (by simp [hst])).imp_right .inl
    · exact (tbStopmark_slotScheduled s).imp_right .inr

/-- Settles O47: a timer event writes the IR engine and, when it runs the scheduler, the registry's
scheduling fields, which `en` and `pwm` are not. -/
theorem timerEventsLeaveSerial : Obligations.TimerEventsLeaveSerial := by
  intro e s t he h
  obtain ⟨⟨hser, hbus, henv⟩, ⟨hreg, _⟩ | ⟨k, w, hreg, _⟩⟩ := deliver_timer_cases he h
  · exact ⟨hser, hbus, by rw [hreg], by rw [hreg], henv⟩
  · exact ⟨hser, hbus, by rw [hreg, countdownUpdate_en], by rw [hreg, countdownUpdate_pwm], henv⟩

end Sys2Proof.Machine
end

section
/-! PROOFS. The invariants of the registry and the configuration: what every delivered event keeps, every
step keeps. -/

namespace Sys2Proof.Machine

/-! ## From events to steps -/

/-- A predicate that the timer's count does not matter to and that every delivered event keeps is kept by
the timer's part of a clk edge (`40_ir_frame_engine.md` R72). -/
theorem timerEdge_keeps {P : State → Prop} (htcnt : ∀ s n, P s → P (setTcnt n s))
    (hev : ∀ e s t, P s → deliver e s = .next t → P t) {p : Ports} {s t : State}
    (hs : P s) (h : timerEdge p s = .next t) : P t := by
  rcases timerEdge_cases h with ⟨_, rfl⟩ | ⟨_, _, _, h⟩ | ⟨_, _, _, h⟩ | ⟨_, _, _, rfl⟩
  · exact hs
  · exact hev _ _ _ (htcnt _ _ hs) h
  · exact hev _ _ _ hs h
  · exact htcnt _ _ hs

/-- The invariant rule for a predicate that neither the queue, the bit layer nor the timer's count matters
to: reset and every delivered event are left to check, the serial and the timer events apart. -/
theorem step_keeps_of_events {P : State → Prop}
    (hq : ∀ s l n, P s → P { s with inputs := l, edges := n })
    (hbus : ∀ s b, P s → P { s with bus := b }) (htcnt : ∀ s n, P s → P (setTcnt n s))
    (hreset : ∀ s, P s → P (resetState s))
    (hserial : ∀ s t, P s → InfraredKept s t → P t)
    (htimer : ∀ s t, P s → OnlyInfrared s t → WithinSlot s t ∨ SlotScheduled s t → P t)
    {s t : State} (hs : P s) (h : step s = .next t) : P t := by
  have hev : ∀ e s t, P s → deliver e s = .next t → P t := by
    intro e s t hs h
    by_cases he : SerialEvent e
    · exact hserial s t hs (deliver_serial_infraredKept he h)
    · obtain ⟨honly, hslot⟩ := deliver_timer_cases he h
      exact htimer s t hs honly hslot
  exact step_keeps hq hreset (fun _ _ _ => timerEdge_keeps htcnt hev) hbus hev hs h

/-! ## The configuration -/

/-- Settles O43: both kinds of event keep the environment, and reset rebuilds the state from the
configuration it has. -/
theorem stepKeepsConfiguration : Obligations.StepKeepsConfiguration := by
  intro s t h
  refine step_keeps_of_events (P := fun u => u.cfg = s.cfg) (fun _ _ _ hu => hu) (fun _ _ hu => hu)
    (fun _ _ hu => hu) (fun _ hu => hu) ?_ ?_ rfl h
  · rintro u v hu ⟨_, _, hcfg, _⟩
    exact hcfg.trans hu
  · rintro u v hu ⟨_, _, hcfg, _⟩ _
    exact hcfg.trans hu

/-! ## The countdowns -/

/-- `CountdownUpdate()` keeps the bounds: it reloads a countdown of 1 with the period and takes 1 from a
larger one (`41_ir_scheduler.md` R91). -/
theorem countdownUpdate_inRange {c : Params} {r : Registry} {k : Chan}
    (hperiod : 1 ≤ (chanGet c.period k).toNat)
    (hlow : 1 ≤ (chanGet r.countdown k).toNat)
    (hhigh : (chanGet r.countdown k).toNat ≤ (chanGet c.period k).toNat) :
    1 ≤ (chanGet (countdownUpdate c r).countdown k).toNat ∧
      (chanGet (countdownUpdate c r).countdown k).toNat ≤ (chanGet c.period k).toNat := by
  rw [countdownUpdate_get]
  split
  · exact ⟨hperiod, le_rfl⟩
  · rename_i hne
    bv_omega

theorem one_le_period {c : Params} (h : c.PeriodValid) (k : Chan) :
    1 ≤ (chanGet c.period k).toNat := h.1 ⟨k.toNat, k.isLt⟩

/-- Settles O39: a countdown is written by `CountdownUpdate()` and by reset only. -/
theorem stepKeepsCountdownInv : Obligations.StepKeepsCountdownInv := by
  intro s t hp hs h
  refine (step_keeps_of_events (P := fun u => u.cfg.PeriodValid ∧ CountdownInv u)
    (fun _ _ _ hu => hu) (fun _ _ hu => hu) (fun _ _ hu => hu) ?_ ?_ ?_ ⟨hp, hs⟩ h).2
  · rintro u ⟨hpu, _⟩
    exact ⟨hpu, fun k => ⟨one_le_period hpu k, le_rfl⟩⟩
  · rintro u v ⟨hpu, hu⟩ ⟨_, hreg, hcfg, _⟩
    refine ⟨hcfg ▸ hpu, fun k => ?_⟩
    rw [hreg, hcfg]
    exact hu k
  · rintro u v ⟨hpu, hu⟩ ⟨_, _, hcfg, _⟩ hslot
    refine ⟨hcfg ▸ hpu, fun k => ?_⟩
    obtain ⟨hreg, _⟩ | ⟨_, _, hreg, _⟩ := hslot <;> rw [hreg, hcfg]
    · exact hu k
    · exact countdownUpdate_inRange (one_le_period hpu k) (hu k).1 (hu k).2

/-! ## The waiting flag -/

/-- Settles O40: within a slot neither `waiting` nor being in Stopped changes, and a scheduler step that
selects sets the two together. -/
theorem stepKeepsWaitingInv : Obligations.StepKeepsWaitingInv := by
  intro s t hs h
  refine step_keeps_of_events (P := WaitingInv) (fun _ _ _ hu => hu) (fun _ _ hu => hu)
    (fun _ _ hu => hu) (fun _ _ => iff_of_true rfl rfl) ?_ ?_ hs h
  · rintro u v hu ⟨hir, hreg, _⟩
    unfold WaitingInv
    rw [hreg, hir]
    exact hu
  · rintro u v hu _ (⟨hreg, hstopped⟩ | ⟨_, _, hreg, hwaiting⟩) <;> unfold WaitingInv <;> rw [hreg]
    · exact hu.trans hstopped.symm
    · exact hwaiting

end Sys2Proof.Machine
end

section
/-! PROOFS. The state after reset (`10_state.md` R28). -/

namespace Sys2Proof.Machine

/-- Settles O45: the elements of `pwm` and `buf` are those of a constant array, and the countdown array is
the period array; the rest of the table is read off the record. -/
theorem resetValues : Obligations.ResetValues := by
  intro c
  have hpwm : ∀ k : Chan, chanGet (State.resetWith c).reg.pwm k = 0 :=
    fun k => Vector.getElem_replicate k.isLt
  have hbuf : ∀ i : Fin 8, (State.resetWith c).ser.buf[i] = 0 :=
    fun i => Vector.getElem_replicate i.isLt
  exact ⟨rfl, fun k => ⟨hpwm k, rfl⟩, rfl, rfl, rfl, rfl, rfl, rfl, rfl, hbuf, rfl⟩

/-! ## The configuration of `State.reset` -/

/-- A character code minus 1 below 127 is a character in 0x01..0x7F (R6, D6). -/
theorem asciiValid_asciiString (f : Fin 8 → Fin 127) : Params.AsciiValid (Config.asciiString f) := by
  intro i
  have hchar : (Config.asciiString f)[i] = BitVec.ofNat 8 ((f i).val + 1) :=
    Vector.getElem_ofFn i.isLt
  have hlt : (f i).val < 127 := (f i).isLt
  rw [hchar, BitVec.toNat_ofNat]
  omega

/-- The OPEN parameters are built within R6's constraints, and the defaults meet them (log 3). -/
theorem config_params_valid : Config.params.Valid := by
  have hperiod : Config.params.PeriodValid := by
    unfold Params.PeriodValid Config.params; decide
  have hsentinel : Config.params.SentinelValid := by
    unfold Params.SentinelValid Config.params; decide
  have htiming : Config.params.TimingValid := by
    unfold Params.TimingValid Config.params; decide
  have hcarrier : Config.params.CarrierValid := by
    show 0 < 38000 ∧ 0 < Config.dutyHigh + 1 ∧
      Config.dutyHigh + 1 < Config.dutyHigh + Config.dutyLow + 2
    omega
  exact ⟨asciiValid_asciiString _, asciiValid_asciiString _, asciiValid_asciiString _, hperiod,
    hsentinel, htiming, hcarrier⟩

/-! ## The invariants -/

/-- After reset the serial engine awaits an address, unarmed, with nothing selected. -/
theorem resetWith_protocolInv (c : Params) : ProtocolInv (State.resetWith c) :=
  ⟨nofun, nofun, nofun, nofun, .inl rfl⟩

/-- After reset every countdown is at its period. -/
theorem resetWith_countdownInv {c : Params} (h : c.PeriodValid) : CountdownInv (State.resetWith c) :=
  fun k => ⟨one_le_period h k, le_rfl⟩

theorem resetWith_waitingInv (c : Params) : WaitingInv (State.resetWith c) := iff_of_true rfl rfl

theorem resetWith_zerosInv (c : Params) : ZerosInv (State.resetWith c).ir :=
  ⟨Nat.zero_le _, nofun, nofun⟩

/-- T_FRAME fits the compare register (D33) and is above 0. -/
theorem ticks_tFrame_toNat {c : Params} (h : c.TimingValid) :
    (ticks c.tFrame).toNat = c.tFrame ∧ 0 < c.tFrame := by
  obtain ⟨_, _, _, _, hfits, hwidth⟩ := h
  refine ⟨?_, by omega⟩
  rw [ticks, BitVec.toNat_ofNat]
  omega

/-- After reset the timer counts the first idle slot, from 0 to T_FRAME. -/
theorem resetWith_timerInv {c : Params} (h : c.TimingValid) : TimerInv (State.resetWith c) := by
  obtain ⟨hcmpb, hpos⟩ := ticks_tFrame_toNat h
  have hgap : GapInv c (IrEngine.reset c) := hcmpb.le
  have hcount : (IrEngine.reset c).tcnt.toNat < (ticks c.tFrame).toNat := hcmpb.symm ▸ hpos
  exact ⟨resetWith_zerosInv c, fun _ => rfl, hgap, hcount⟩

/-- After reset no frame is queued or in flight. -/
theorem resetWith_zeroCountInv (c : Params) : ZeroCountInv (State.resetWith c) :=
  ⟨resetWith_zerosInv c, trivial⟩

/-- Settles O44, one lemma per invariant, each from the part of R6's constraints that it needs. -/
theorem invariantsHoldAtReset : Obligations.InvariantsHoldAtReset := by
  refine ⟨config_params_valid, fun c hc => ?_⟩
  obtain ⟨_, _, _, hperiod, _, htiming, _⟩ := hc
  exact ⟨resetWith_protocolInv c, resetWith_countdownInv hperiod, resetWith_waitingInv c,
    resetWith_timerInv htiming, resetWith_zeroCountInv c⟩

end Sys2Proof.Machine
end

section
/-! PROOFS. The frame queued or in flight: what a step can do to the word being sent (`30_encoding.md` R59;
`40_ir_frame_engine.md` R74 to R81). -/

namespace Sys2Proof.Machine

/-! ## What `Sending` reads -/

theorem sending_iff_of_sendingBit {w : CommandWord} {e : IrEngine} (h : e.tstate = .sendingBit) :
    Sending w e ↔
      e.shreg = w <<< (16 - e.bitpos.toNat) ∧ e.bitval = w.getLsbD e.bitpos.toNat := by
  simp only [Sending, h]

/-- Before the first bit is latched the whole word stands in the shift register. -/
theorem sending_iff_shreg {w : CommandWord} {e : IrEngine}
    (h : e.tstate = .starting ∨ e.tstate = .sendingStartMark) : Sending w e ↔ e.shreg = w := by
  rcases h with h | h <;> simp only [Sending, h]

/-- Nothing is sent in Stopped. -/
theorem Sending.ne_stopped {w : CommandWord} {e : IrEngine} (h : Sending w e) :
    e.tstate ≠ .stopped := by
  intro hst
  simp only [Sending, hst] at h

@[simp] theorem sending_with_tcnt (w : CommandWord) (e : IrEngine) (n : Count) :
    Sending w { e with tcnt := n } ↔ Sending w e := Iff.rfl

@[simp] theorem sending_beginMark (w : CommandWord) (c : Params) (e : IrEngine) :
    Sending w (beginMark c e) ↔ Sending w e := Iff.rfl

@[simp] theorem sending_endMark (w : CommandWord) (n : Nat) (e : IrEngine) :
    Sending w (endMark n e) ↔ Sending w e := Iff.rfl

/-! ## The boundaries of a frame -/

/-- A queued frame starts with its word unchanged (`40_ir_frame_engine.md` R74). -/
theorem sending_beginFrame {w : CommandWord} {c : Params} {e : IrEngine} (hst : e.tstate = .starting)
    (h : Sending w e) : Sending w (beginFrame c e) :=
  (sending_iff_shreg (.inr rfl)).2 ((sending_iff_shreg (.inl hst)).1 h)

/-- The shift-out of bit `p`: when the bits of `w` from `p` down stand at the top of the shift register,
`latchBit` puts bit `p` on the line and leaves the bits below it (`30_encoding.md` R59). -/
theorem sending_latchBit {w : CommandWord} {e : IrEngine} {p : BitVec 4}
    (h : e.shreg = w <<< (15 - p.toNat)) :
    Sending w { latchBit e with bitpos := p, tstate := .sendingBit } := by
  have hp : p.toNat < 16 := p.isLt
  refine (sending_iff_of_sendingBit rfl).2 ⟨?_, ?_⟩
  · show e.shreg <<< 1 = w <<< (16 - p.toNat)
    rw [h, ← BitVec.shiftLeft_add]
    congr 1
    omega
  · show e.shreg.getLsbD 15 = w.getLsbD p.toNat
    have hindex : 15 - (15 - p.toNat) = p.toNat := by omega
    rw [h, BitVec.getLsbD_shiftLeft, hindex]
    simp

/-- The end of the start symbol puts the word's bit 15 on the line (`40_ir_frame_engine.md` R76). -/
theorem sending_firstBit {w : CommandWord} {e : IrEngine} (hst : e.tstate = .sendingStartMark)
    (h : Sending w e) : Sending w { latchBit e with bitpos := 15, tstate := .sendingBit } := by
  have hword : e.shreg = w := (sending_iff_shreg (.inr hst)).1 h
  exact sending_latchBit (hword.trans (BitVec.shiftLeft_zero w).symm)

/-- The end of a data bit above bit 0 puts the next lower bit on the line
(`40_ir_frame_engine.md` R78). -/
theorem sending_nextBit {w : CommandWord} {e : IrEngine} (hst : e.tstate = .sendingBit)
    (hpos : 0 < e.bitpos) (h : Sending w e) :
    Sending w { latchBit e with bitpos := e.bitpos - 1 } := by
  obtain ⟨hrest, _⟩ := (sending_iff_of_sendingBit hst).1 h
  have hshift : 16 - e.bitpos.toNat = 15 - (e.bitpos - 1).toNat := by bv_omega
  have hlatched := sending_latchBit (hrest.trans (by rw [hshift]))
  rwa [← hst] at hlatched

/-! ## One event, one edge, one step -/

/-- The frame of `e` goes on in `e'`: the same word is still sent, or its stop symbol has ended. -/
def FrameGoesOn (w : CommandWord) (e e' : IrEngine) : Prop :=
  Sending w e' ∨ (e.tstate = .sendingStopMark ∧ (e'.tstate = .stopped ∨ e'.tstate = .starting))

/-- The end of a mark does not touch the word (`40_ir_frame_engine.md` R75, R77, R79). -/
theorem deliver_cmpA_sending {w : CommandWord} {s t : State} (hs : Sending w s.ir)
    (h : deliver .cmpA s = .next t) : Sending w t.ir := by
  obtain ⟨_, ⟨_, rfl⟩ | ⟨_, rfl⟩⟩ := deliver_cmpA_cases h
  all_goals exact (sending_endMark w _ _).2 hs

/-- The end of the stop symbol leaves the engine stopped or with the next frame queued
(`40_ir_frame_engine.md` R80). -/
theorem tbStopmark_tstate (s : State) :
    (schedStep (endFrame s)).ir.tstate = .stopped ∨ (schedStep (endFrame s)).ir.tstate = .starting := by
  obtain ⟨_, ⟨_, ht⟩ | ⟨_, ht⟩⟩ := tbStopmark_cases s <;> rw [ht]
  · exact .inr rfl
  · exact .inl rfl

/-- A symbol's boundary moves on to the next symbol of the same frame, or ends it. -/
theorem deliver_cmpB_frameGoesOn {w : CommandWord} {s t : State} (hs : Sending w s.ir)
    (h : deliver .cmpB s = .next t) : FrameGoesOn w s.ir t.ir := by
  obtain ⟨_, ⟨hst, rfl⟩ | ⟨hst, rfl⟩ | ⟨hst, rfl⟩ | ⟨hst, hpos, rfl⟩ | ⟨_, _, rfl⟩ | ⟨hst, rfl⟩⟩ :=
    deliver_cmpB_cases h
  · exact absurd hst hs.ne_stopped
  · exact .inl (sending_beginFrame hst hs)
  · exact .inl ((sending_beginMark w _ _).2 (sending_firstBit hst hs))
  · exact .inl ((sending_beginMark w _ _).2 (sending_nextBit hst hpos hs))
  · exact .inl trivial
  · exact .inr ⟨hst, tbStopmark_tstate s⟩

/-- Any delivered event: a serial one does not reach the IR engine at all (`43_serial_registers.md`
R140). -/
theorem deliver_frameGoesOn {w : CommandWord} {e : Event} {s t : State} (hs : Sending w s.ir)
    (h : deliver e s = .next t) : FrameGoesOn w s.ir t.ir := by
  by_cases he : SerialEvent e
  · obtain ⟨hir, _⟩ := deliver_serial_infraredKept he h
    exact .inl (hir.symm ▸ hs)
  · rcases not_serialEvent_iff.1 he with rfl | rfl
    · exact .inl (deliver_cmpA_sending hs h)
    · exact deliver_cmpB_frameGoesOn hs h

/-- The timer's part of a clk edge counts, or delivers one event. -/
theorem timerEdge_frameGoesOn {w : CommandWord} {p : Ports} {s t : State} (hs : Sending w s.ir)
    (h : timerEdge p s = .next t) : FrameGoesOn w s.ir t.ir := by
  rcases timerEdge_cases h with ⟨_, rfl⟩ | ⟨_, _, _, h⟩ | ⟨_, _, _, h⟩ | ⟨_, _, _, rfl⟩
  · exact .inl hs
  · exact .inl (deliver_cmpA_sending (s := setTcnt _ s) ((sending_with_tcnt w _ _).2 hs) h)
  · exact deliver_cmpB_frameGoesOn hs h
  · exact .inl ((sending_with_tcnt w _ _).2 hs)

/-- The bit layer's part of a clk edge leaves the IR engine alone (`10_state.md` R29). -/
theorem serialEdge_ir {p : Ports} {s t : State} (h : serialEdge p s = .next t) : t.ir = s.ir := by
  refine serialEdge_keeps (P := fun u => u.ir = s.ir) (fun _ _ hu => hu) ?_ rfl h
  intro e u v he hu hv
  obtain ⟨hir, _⟩ := deliver_serial_infraredKept he hv
  exact hir.trans hu

/-- A clk edge runs the timer once, before or after the bit layer, or holds the block in reset
(`60_exceptions.md` R168; `70_reset_and_hazards.md` R180). -/
theorem clkEdge_frameGoesOn {w : CommandWord} {p : Ports} {s t : State} (hs : Sending w s.ir)
    (h : clkEdge p s = .next t) : FrameGoesOn w s.ir t.ir ∨ t = resetState s := by
  unfold clkEdge at h
  split at h
  · split at h
    · obtain ⟨u, hu, hv⟩ := andThen_eq_next.1 h
      exact .inl (serialEdge_ir hv ▸ timerEdge_frameGoesOn hs hu)
    · obtain ⟨u, hu, hv⟩ := andThen_eq_next.1 h
      have hir : u.ir = s.ir := serialEdge_ir hu
      exact .inl (hir ▸ timerEdge_frameGoesOn (hir.symm ▸ hs) hv)
  · cases h
    exact .inr rfl

/-- Settles O51: a step is a clk edge, a reset or one event, and the state with the input taken has the same
IR engine and configuration. -/
theorem frameInFlightIsNeverChanged : Obligations.FrameInFlightIsNeverChanged := by
  intro w s t hs h
  have hreset : ∀ l n, t = resetState { s with inputs := l, edges := n } →
      t.ir = (State.resetWith s.cfg).ir := by
    rintro l n rfl
    rfl
  have hsplit : FrameGoesOn w s.ir t.ir ∨ t.ir = (State.resetWith s.cfg).ir := by
    obtain ⟨l, n, ⟨p, h⟩ | h | ⟨e, h⟩⟩ := step_cases h
    · exact (clkEdge_frameGoesOn (s := { s with inputs := l, edges := n }) hs h).imp_right (hreset l n)
    · exact .inr (hreset l n h)
    · exact .inl (deliver_frameGoesOn (s := { s with inputs := l, edges := n }) hs h)
  exact or_assoc.1 hsplit

end Sys2Proof.Machine
end

section
/-! PROOFS. The decoder and the encoder (`30_encoding.md` R50 to R58, R66): what the decoder reads in the
context of a row, and that encoder and decoder undo each other, format by format. -/

namespace Sys2Proof.Machine

/-! ## The contexts of the rows -/

/-- In the context column of ADDR the decoder's context is an armed AwaitingAddress. -/
theorem eq_of_expectsAddress {x : Context} (h : x.expectsAddress = true) :
    x = { x with pstate := .awaitingAddress, armed := true } := by
  cases x; simpa [Context.expectsAddress] using h

/-- In the context column of WDATA the decoder's context is AwaitingWriteData with `a` selected. -/
theorem eq_of_expectsData {x : Context} {a : Byte} (h : x.expectsData a = true) :
    x = { x with pstate := .awaitingWriteData, sel := a } := by
  cases x; simpa [Context.expectsData] using h

/-- In the context column of the TA rows the state is the row's and the carrier is on. -/
theorem eq_of_inMark {x : Context} {t : TState} (h : x.inMark t = true) :
    x = { x with tstate := t, carrierOn := true } := by
  cases x; simpa [Context.inMark] using h

/-- In the context column of the TB rows the state is the row's and the carrier is off. -/
theorem eq_of_inGap {x : Context} {t : TState} (h : x.inGap t = true) :
    x = { x with tstate := t, carrierOn := false } := by
  cases x; simpa [Context.inGap] using h

theorem expectsAddress_of {x : Context} (hp : x.pstate = .awaitingAddress) (ha : x.armed = true) :
    x.expectsAddress = true := by
  simp [Context.expectsAddress, hp, ha]

theorem expectsData_of {x : Context} {a : Byte} (hp : x.pstate = .awaitingWriteData)
    (hs : x.sel = a) : x.expectsData a = true := by
  simp [Context.expectsData, hp, hs]

/-! ## What the decoder reads, format by format -/

/-- Format SEL: in AwaitingRegisterSelect the byte alone names its row (`30_encoding.md` R50, R52). -/
theorem decode_rxByte_of_select (c : Params) {x : Context} (hp : x.pstate = .awaitingRegisterSelect)
    (b : Byte) : decode c x (.event (.rxByte b)) = .instr (decodeSel b) := by
  simp only [decode, decodeEvent, decodeByte, hp]

/-- Format WDATA: in AwaitingWriteData the selected register names the row (`30_encoding.md` R53). -/
theorem decode_rxByte_of_writeData (c : Params) {x : Context} (hp : x.pstate = .awaitingWriteData)
    (d : Byte) : decode c x (.event (.rxByte d)) = .instr (decodeWData x.sel d) := by
  simp only [decode, decodeEvent, decodeByte, hp]

/-- ADDR.X: the address byte of another device (`42_serial_protocol.md` R109). -/
theorem decodeAddr_addressByte_of_ne {c : Params} {addr : BitVec 7} (h : addr ≠ c.deviceAddress)
    (dir : Bool) : decodeAddr c (addressByte addr dir) = .addrX addr dir := by
  simp [decodeAddr, h]

/-- ADDR.R and ADDR.W: the address byte of this device, by its direction (`30_encoding.md` R51). -/
theorem decodeAddr_deviceAddress (c : Params) (dir : Bool) :
    decodeAddr c (addressByte c.deviceAddress dir) = if dir then .addrR else .addrW := by
  simp [decodeAddr]

/-- SEL.BAD: a select byte outside the register map (`42_serial_protocol.md` R112). -/
theorem decodeSel_of_not_mem {b : Byte} (h : b ∉ whitelist) : decodeSel b = .selBad b := by
  simp only [whitelist, List.mem_cons, List.not_mem_nil, not_or] at h
  simp [decodeSel, h]

theorem writable_cases {a : Byte} (h : writable a = true) :
    a = 0x42 ∨ a = 0x43 ∨ a = 0x44 ∨ a = 0x50 ∨ a = 0x51 ∨ a = 0x52 ∨ a = 0x53 := by
  simpa [writable] using h

/-- WR.RO: a data byte for a register that is not writable (`42_serial_protocol.md` R113, log 23). -/
theorem decodeWData_of_not_writable {a : Byte} (h : writable a = false) (d : Byte) :
    decodeWData a d = .wrRo d := by
  simp only [writable, decide_eq_false_iff_not, List.mem_cons, List.not_mem_nil, not_or] at h
  simp [decodeWData, h]

/-- Of the registers that are not readable, the write-only two are RD.WO; outside the register map the read
multiplexer has no row (`43_serial_registers.md` R130, R139). -/
theorem decodeRead_of_not_readable {a : Byte} (h : readable a = false) :
    decodeRead a = if a = 0x43#8 then .instr .rdWo else if a = 0x44#8 then .instr .rdWo
      else .rejected .unmappedRead := by
  simp only [readable, decide_eq_false_iff_not, List.mem_cons, List.not_mem_nil, not_or] at h
  simp [decodeRead, h]

/-! ## Fields of an address byte and of a command word -/

/-- The two fields of an address byte are all of it (`30_encoding.md` R51). -/
theorem addressByte_fields (b : Byte) : addressByte (addrField b) (dirField b) = b := by
  apply BitVec.eq_of_getLsbD_eq
  intro i hi
  have happend : (addressByte (addrField b) (dirField b)).getLsbD i =
      if i < 1 then (BitVec.ofBool (dirField b)).getLsbD i else (addrField b).getLsbD (i - 1) :=
    BitVec.getLsbD_append
  rw [happend]
  cases i with
  | zero => simp [dirField]
  | succ n =>
    have hn : n < 7 := by omega
    simp [addrField, hn, Nat.add_comm 1 n]

/-- A PWM byte with a high nibble of 0 is its data nibble (`30_encoding.md` R57). -/
theorem zeroExtend_dataNibble {p : Byte} (h : p.extractLsb' 4 4 = 0) :
    (dataNibble p).zeroExtend 8 = p := by
  have hhigh : p.toNat / 16 % 16 = 0 := by
    simpa [Nat.shiftRight_eq_div_pow] using congrArg BitVec.toNat h
  have hlow : (dataNibble p).toNat = p.toNat % 16 := by simp [dataNibble]
  apply BitVec.eq_of_toNat_eq
  rw [BitVec.toNat_setWidth, hlow]
  have hp : p.toNat < 256 := p.isLt
  omega

/-- A command word's data field is the low nibble of the PWM byte (`30_encoding.md` R58). -/
theorem wordData_frameWord (c : Params) (ch : Chan) (p : Byte) :
    wordData (frameWord c ch p) = (dataNibble p).zeroExtend 8 := by
  obtain ⟨_, _, hdata, _⟩ := frameWord_fields c ch p
  rw [wordData, hdata]

/-- The data field read as a PWM byte has a high nibble of 0. -/
theorem extractLsb'_wordData (w : CommandWord) : (wordData w).extractLsb' 4 4 = 0 := by
  have hlt : (wordData w).toNat < 2 ^ 4 := by
    have hnibble : (w.extractLsb' 4 4).toNat < 2 ^ 4 := (w.extractLsb' 4 4).isLt
    rw [wordData, BitVec.toNat_setWidth]
    omega
  apply BitVec.eq_of_toNat_eq
  rw [BitVec.extractLsb'_toNat, Nat.shiftRight_eq_div_pow, Nat.div_eq_of_lt hlt]
  rfl

/-- IRWORD: a command word is read back by its channel and data nibble (`30_encoding.md` R58, log 9). -/
theorem decodeIrWord_frameWord (c : Params) (ch : Chan) {p : Byte} (hp : p.extractLsb' 4 4 = 0) :
    decodeIrWord (frameWord c ch p) = .instr (.frame ch p) := by
  obtain ⟨_, _, _, _, hzero, hchan⟩ := frameWord_fields c ch p
  rw [decodeIrWord, if_pos hzero, hchan, wordData_frameWord, zeroExtend_dataNibble hp]

/-! ## Encode, then decode -/

/-- Settles O1, row by row: the context column fixes the part of the context that the format reads, and
the operand checks of ADDR.X, SEL.BAD and FRAME leave the decoder no other row. -/
theorem decodeEncodeRoundTrip : Obligations.DecodeEncodeRoundTrip := by
  intro c x i hwf hx
  cases i with
  | addrX addr dir =>
    rw [eq_of_expectsAddress hx]
    exact congrArg Decoded.instr (decodeAddr_addressByte_of_ne (of_decide_eq_true hwf) dir)
  | addrW =>
    rw [eq_of_expectsAddress hx]
    exact congrArg Decoded.instr (decodeAddr_deviceAddress c false)
  | addrR =>
    rw [eq_of_expectsAddress hx]
    exact congrArg Decoded.instr (decodeAddr_deviceAddress c true)
  | selVersion | selVendor | selProduct | selStatus | selDisable | selEnable
  | selPwm0 | selPwm1 | selPwm2 | selPwm3 =>
    exact decode_rxByte_of_select c (of_decide_eq_true hx) _
  | selBad b =>
    rw [encode, decode_rxByte_of_select c (of_decide_eq_true hx),
      decodeSel_of_not_mem (of_decide_eq_true hwf)]
  | wrStatus | wrDisable | wrEnable | wrPwm0 | wrPwm1 | wrPwm2 | wrPwm3 =>
    rw [eq_of_expectsData hx]; rfl
  | wrRo d =>
    simp only [Instr.inContext, Bool.and_eq_true, decide_eq_true_eq, Bool.not_eq_true'] at hx
    obtain ⟨hp, hsel⟩ := hx
    rw [encode, decode_rxByte_of_writeData c hp, decodeWData_of_not_writable hsel]
  | rdVersion | rdVendor | rdProduct | rdStatus | rdPwm0 | rdPwm1 | rdPwm2 | rdPwm3 | rdWo => rfl
  | hack | hnack | sStart | sStop | sched => rfl
  | taStartmark | taBit | taStopmark => rw [eq_of_inMark hx]; rfl
  | tbStopped | tbStarting | tbStartmark | tbBit | tbStopmark => rw [eq_of_inGap hx]; rfl
  | frame ch p => exact decodeIrWord_frameWord c ch (of_decide_eq_true hwf)

/-! ## Decode, then encode -/

/-- `i` is well-formed, stands in its row's context, and its code is `code`. -/
def ExactRow (c : Params) (x : Context) (code : Code) (i : Instr) : Prop :=
  i.wellFormed c = true ∧ i.inContext x = true ∧ encode c i = code

/-- Format ADDR (`30_encoding.md` R51). -/
theorem decodeAddr_exactRow (c : Params) {x : Context} (hx : x.expectsAddress = true) (b : Byte) :
    ExactRow c x (.event (.rxByte b)) (decodeAddr c b) := by
  rw [← addressByte_fields b]
  by_cases h : addrField b = c.deviceAddress
  · rw [h, decodeAddr_deviceAddress]
    cases dirField b with
    | true => exact ⟨rfl, hx, rfl⟩
    | false => exact ⟨rfl, hx, rfl⟩
  · rw [decodeAddr_addressByte_of_ne h]
    exact ⟨decide_eq_true h, hx, rfl⟩

/-- Format SEL (`30_encoding.md` R52). -/
theorem decodeSel_exactRow (c : Params) {x : Context} (hp : x.pstate = .awaitingRegisterSelect)
    (b : Byte) : ExactRow c x (.event (.rxByte b)) (decodeSel b) := by
  by_cases h : b ∈ whitelist
  · rcases whitelist_cases h with rfl | rfl | rfl | rfl | rfl | rfl | rfl | rfl | rfl | rfl <;>
      exact ⟨rfl, decide_eq_true hp, rfl⟩
  · rw [decodeSel_of_not_mem h]
    exact ⟨decide_eq_true h, decide_eq_true hp, rfl⟩

/-- Format WDATA (`30_encoding.md` R53). -/
theorem decodeWData_exactRow (c : Params) {x : Context} (hp : x.pstate = .awaitingWriteData)
    (d : Byte) : ExactRow c x (.event (.rxByte d)) (decodeWData x.sel d) := by
  cases h : writable x.sel with
  | true =>
    rcases writable_cases h with ha | ha | ha | ha | ha | ha | ha <;> rw [ha] <;>
      exact ⟨rfl, expectsData_of hp ha, rfl⟩
  | false =>
    rw [decodeWData_of_not_writable h]
    exact ⟨rfl, by simp [Instr.inContext, hp, h], rfl⟩

/-- A received byte, in the three states of the protocol that take one (`42_serial_protocol.md` R107). -/
theorem decodeByte_exactRow {c : Params} {x : Context} {b : Byte} {i : Instr}
    (h : decodeByte c x b = .instr i) : ExactRow c x (.event (.rxByte b)) i := by
  cases hp : x.pstate with
  | awaitingAddress =>
    simp only [decodeByte, hp] at h
    split at h
    case isTrue harmed => cases h; exact decodeAddr_exactRow c (expectsAddress_of hp harmed) b
    case isFalse => cases h
  | awaitingRegisterSelect =>
    simp only [decodeByte, hp] at h
    cases h; exact decodeSel_exactRow c hp b
  | awaitingWriteData =>
    simp only [decodeByte, hp] at h
    cases h; exact decodeWData_exactRow c hp b
  | streamingReadData =>
    simp only [decodeByte, hp] at h
    cases h

/-- Format ACKBIT (`30_encoding.md` R55). -/
theorem decodeAck_exactRow (c : Params) (x : Context) (a : HostAck) :
    ExactRow c x (.event (.hack a)) (decodeAck a) := by
  cases a with
  | ack => exact ⟨rfl, rfl, rfl⟩
  | nack => exact ⟨rfl, rfl, rfl⟩

/-- CMPA: its rows are the marks (`40_ir_frame_engine.md` R84). -/
theorem decodeCmpA_exactRow {c : Params} {x : Context} {i : Instr} (h : decodeCmpA x = .instr i) :
    ExactRow c x (.event .cmpA) i := by
  obtain ⟨p, a, s, t, on⟩ := x
  cases on with
  | false => cases h
  | true =>
    cases t with
    | stopped | starting => cases h
    | sendingStartMark | sendingBit | sendingStopMark => cases h; exact ⟨rfl, rfl, rfl⟩

/-- CMPB: its rows are the five states with the carrier off (`40_ir_frame_engine.md` R72). -/
theorem decodeCmpB_exactRow {c : Params} {x : Context} {i : Instr} (h : decodeCmpB x = .instr i) :
    ExactRow c x (.event .cmpB) i := by
  obtain ⟨p, a, s, t, on⟩ := x
  cases on with
  | true => cases h
  | false => cases t <;> cases h <;> exact ⟨rfl, rfl, rfl⟩

/-- An event that decodes is the code of its row. -/
theorem decodeEvent_exactRow {c : Params} {x : Context} {e : Event} {i : Instr}
    (h : decodeEvent c x e = .instr i) : ExactRow c x (.event e) i := by
  cases e with
  | start | stop => cases h; exact ⟨rfl, rfl, rfl⟩
  | rxByte b => exact decodeByte_exactRow h
  | hack a => cases h; exact decodeAck_exactRow c x a
  | cmpA => exact decodeCmpA_exactRow h
  | cmpB => exact decodeCmpB_exactRow h

/-- Format RDATA: RD.WO has two register addresses, and the encoder gives the first
(`43_serial_registers.md` R139). -/
theorem decodeRead_exactRow {c : Params} {x : Context} {a : Byte} {i : Instr}
    (h : decodeRead a = .instr i) :
    ExactRow c x (.read a) i ∨ i = .rdWo ∧ a = 0x44#8 := by
  cases hr : readable a with
  | true =>
    rcases readable_cases hr with rfl | rfl | rfl | rfl | rfl | rfl | rfl | rfl <;>
      cases h <;> exact .inl ⟨rfl, rfl, rfl⟩
  | false =>
    rw [decodeRead_of_not_readable hr] at h
    split_ifs at h with h43 h44
    · cases h; exact .inl ⟨rfl, rfl, congrArg Code.read h43.symm⟩
    · cases h; exact .inr ⟨rfl, h44⟩

/-- Format IRWORD: the row is FRAME of the word's channel and data nibble (log 9). -/
theorem decodeIrWord_eq_instr {w : CommandWord} {i : Instr} (h : decodeIrWord w = .instr i) :
    i = .frame (wordChannel w) (wordData w) := by
  unfold decodeIrWord at h
  split at h
  · cases h; rfl
  · cases h

/-- Settles O2, one format for each kind of code: every code but RD.WO's second address and a command
word is the code of the row it decodes to. -/
theorem decodedRowsAreExact : Obligations.DecodedRowsAreExact := by
  intro c x code i h
  cases code with
  | event e =>
    obtain ⟨hwf, hctx, hcode⟩ := decodeEvent_exactRow h
    exact ⟨hwf, hctx, .inl hcode⟩
  | read a =>
    obtain ⟨hwf, hctx, hcode⟩ | ⟨rfl, rfl⟩ := decodeRead_exactRow (c := c) (x := x) h
    · exact ⟨hwf, hctx, .inl hcode⟩
    · exact ⟨rfl, rfl, .inr (.inl ⟨rfl, rfl⟩)⟩
  | irWord w =>
    obtain rfl := decodeIrWord_eq_instr h
    exact ⟨decide_eq_true (extractLsb'_wordData w), rfl, .inr (.inr ⟨w, rfl, rfl⟩)⟩
  | schedCall =>
    cases h
    exact ⟨rfl, rfl, .inl rfl⟩

/-! ## Words written out, table words, FRAME -/

/-- Settles O3: the address bytes are the codes of their rows for this device address, so the round trip
decodes them; the other words are read in the context that their row asks for. -/
theorem sampleWordsDecode : Obligations.SampleWordsDecode := by
  refine ⟨rfl, rfl, rfl, rfl, fun c x hdev => ⟨fun hp harmed => ?_, fun hp hsel => ?_, rfl⟩⟩
  · have hx : x.expectsAddress = true := expectsAddress_of hp harmed
    have hW : encode c .addrW = .event (.rxByte 0b00000010) := by rw [encode, hdev]; rfl
    have hR : encode c .addrR = .event (.rxByte 0b00000011) := by rw [encode, hdev]; rfl
    have hother : (Instr.addrX 0b0001000 false).wellFormed c = true := by
      rw [Instr.wellFormed, hdev]; rfl
    exact ⟨hW ▸ decodeEncodeRoundTrip c x .addrW rfl hx, hR ▸ decodeEncodeRoundTrip c x .addrR rfl hx,
      decodeEncodeRoundTrip c x (.addrX 0b0001000 false) hother hx⟩
  · exact decodeEncodeRoundTrip c x (.wrDisable 0x06#8) rfl (expectsData_of hp hsel)

/-- A table word of 8 bits is a select byte (log 4). -/
theorem tableCode_byte (b : Byte) : tableCode 8 b.toNat = some (.event (.rxByte b)) := by
  rw [tableCode, BitVec.ofNat_toNat, BitVec.setWidth_eq]

/-- A table word of 8 bits always decodes, to the row of its select byte (log 4). -/
theorem decodeTableWord_byte (b : Byte) : decodeTableWord 8 b.toNat = some (decodeSel b) := by
  rw [decodeTableWord, tableCode_byte]
  rfl

/-- A table word of 8 bits is placed as a received byte in AwaitingRegisterSelect (log 4). -/
theorem withFetchWord_byte (s : State) (b : Byte) :
    s.withFetchWord 8 b.toNat = withSelectByte b s := by
  rw [State.withFetchWord, tableCode_byte]
  rfl

/-- Settles O5: the placed byte is the queue's head in AwaitingRegisterSelect, so the step runs the row it
decodes to there, which is the table word's. -/
theorem stepRunsFetchWord : Obligations.StepRunsFetchWord := by
  intro s b i hi
  rw [decodeTableWord_byte] at hi
  cases hi
  have hd : decode (withSelectByte b s).cfg (withSelectByte b s).context (.event (.rxByte b)) =
      .instr (decodeSel b) := decode_rxByte_of_select _ rfl b
  rw [withFetchWord_byte]
  exact stepRunsDecodedEvent (withSelectByte b s) (.rxByte b) s.inputs (decodeSel b) rfl hd

/-- Settles O32: FRAME writes the command word, whose nibbles are its fields. -/
theorem frameBuildsCommandWord : Obligations.FrameBuildsCommandWord := by
  intro c p s
  obtain ⟨hmarker, hchan, hdata, hsum, _⟩ := frameWord_fields s.cfg c p
  exact ⟨{ s with ir := { s.ir with shreg := frameWord s.cfg c p } }, rfl,
    hmarker, hchan, hdata, hsum, rfl, rfl, rfl, rfl, rfl, rfl, rfl⟩

end Sys2Proof.Machine
end

section
/-! PROOFS. The rows of the frame engine, one by one: the timer's compares, the handlers within a slot, the
events that no row takes, the output (`40_ir_frame_engine.md` R72 to R79, R84, R85). -/

namespace Sys2Proof.Machine

/-! ## The timer at a clk edge -/

/-- Without a tick the timer does nothing (`40_ir_frame_engine.md` R72). -/
theorem timerEdge_of_not_tick {p : Ports} (s : State) (hp : p.tick = false) : timerEdge p s = .next s := by
  rw [timerEdge, hp]; rfl

/-- At a tick that reaches `cmpa` in a mark CMPA is raised with the count advanced
(`40_ir_frame_engine.md` R72). -/
theorem timerEdge_of_cmpA {p : Ports} {s : State} (hp : p.tick = true) (hon : s.ir.carrierOn = true)
    (hmatch : s.ir.tcnt + 1 = s.ir.cmpa) : timerEdge p s = compareA (setTcnt (s.ir.tcnt + 1) s) := by
  rw [timerEdge, if_pos hp, if_pos ⟨hon, hmatch⟩]

/-- At a tick that reaches `cmpb` in a gap CMPB is delivered (`40_ir_frame_engine.md` R72). -/
theorem timerEdge_of_cmpB {p : Ports} {s : State} (hp : p.tick = true) (hoff : s.ir.carrierOn = false)
    (hmatch : s.ir.tcnt + 1 = s.ir.cmpb) : timerEdge p s = deliver .cmpB s := by
  rw [timerEdge, if_pos hp, if_neg (by simp [hoff]), if_pos ⟨hoff, hmatch⟩]

/-- At a tick that reaches no armed compare the timer only counts (`40_ir_frame_engine.md` R72). -/
theorem timerEdge_of_no_match {p : Ports} {s : State} (hp : p.tick = true)
    (ha : s.ir.carrierOn = true → s.ir.tcnt + 1 ≠ s.ir.cmpa)
    (hb : s.ir.carrierOn = false → s.ir.tcnt + 1 ≠ s.ir.cmpb) :
    timerEdge p s = .next (setTcnt (s.ir.tcnt + 1) s) := by
  rw [timerEdge, if_pos hp, if_neg fun h => ha h.1 h.2, if_neg fun h => hb h.1 h.2]

/-- The compare runs the row that CMPA decodes to; the decoder does not read the count. -/
theorem compareA_of_decode {s : State} {i : Instr} (n : Count)
    (hd : decode s.cfg s.context (.event .cmpA) = .instr i) :
    compareA (setTcnt n s) = exec i (setTcnt n s) := by
  have hd' : decodeCmpA (setTcnt n s).context = .instr i := hd
  rw [compareA, hd']

/-- Settles O6: the four branches of the timer's clk edge. -/
theorem timerEdgeRunsHandlers : Obligations.TimerEdgeRunsHandlers := by
  intro p s
  refine ⟨timerEdge_of_not_tick s, fun hp hon hmatch i hd => ?_, fun hp hoff hmatch i hd => ?_,
    timerEdge_of_no_match⟩
  · exact (timerEdge_of_cmpA hp hon hmatch).trans (compareA_of_decode _ hd)
  · exact (timerEdge_of_cmpB hp hoff hmatch).trans (deliver_of_decode_instr hd)

/-! ## The handlers within a slot -/

/-- A state written in the IR engine alone. -/
theorem onlyIrEngine_of_write (s : State) (e : IrEngine) : OnlyIrEngine s { s with ir := e } :=
  ⟨rfl, rfl, rfl, rfl, rfl, rfl⟩

/-- Settles O24: TB.STARTING is the start of a frame, in the IR engine alone. -/
theorem tbStartingBeginsStartMark : Obligations.TbStartingBeginsStartMark :=
  fun s => ⟨_, rfl, rfl, onlyIrEngine_of_write s (beginFrame s.cfg s.ir)⟩

/-- Settles O25: the two operations are the same end of a mark. -/
theorem edgeMarksEndWithLongGap : Obligations.EdgeMarksEndWithLongGap := by
  intro i hi s
  rcases List.mem_pair.1 hi with rfl | rfl
  all_goals exact ⟨_, rfl, rfl, onlyIrEngine_of_write s (endMark (edgeSymbol s.cfg) s.ir)⟩

/-- Settles O26: TA.BIT is the end of a mark with the bit's symbol as boundary. -/
theorem taBitGapFollowsBit : Obligations.TaBitGapFollowsBit :=
  fun s => ⟨_, rfl, rfl, onlyIrEngine_of_write s (endMark (bitSymbol s.cfg s.ir.bitval) s.ir)⟩

/-- Settles O27: TB.STARTMARK latches a bit and begins its mark, in the IR engine alone. -/
theorem tbStartmarkLatchesTopBit : Obligations.TbStartmarkLatchesTopBit :=
  fun s => ⟨_, rfl, rfl, onlyIrEngine_of_write s _⟩

/-- TB.BIT with bits left (`40_ir_frame_engine.md` R78). -/
theorem execTbBit_of_pos {s : State} (h : s.ir.bitpos ≠ 0) :
    execTbBit s =
      .next { s with ir := beginMark s.cfg { latchBit s.ir with bitpos := s.ir.bitpos - 1 } } :=
  if_pos ((BitVec.pos_iff_ne_zero _).2 h)

/-- TB.BIT after bit 0 (`40_ir_frame_engine.md` R78). -/
theorem execTbBit_of_zero {s : State} (h : s.ir.bitpos = 0) :
    execTbBit s = .next { s with ir := beginMark s.cfg { s.ir with tstate := .sendingStopMark } } :=
  if_neg (by rw [h]; decide)

/-- Settles O28: the two branches of TB.BIT. -/
theorem tbBitShiftsNextBit : Obligations.TbBitShiftsNextBit := by
  intro s
  by_cases h : s.ir.bitpos = 0
  · exact ⟨_, execTbBit_of_zero h, (if_pos h).symm, onlyIrEngine_of_write s _⟩
  · exact ⟨_, execTbBit_of_pos h, (if_neg h).symm, onlyIrEngine_of_write s _⟩

/-! ## Events that no row takes -/

/-- CMPA has no row in Stopped and Starting (`40_ir_frame_engine.md` R84). -/
theorem decodeCmpA_of_not_sending {x : Context} (h : x.tstate = .stopped ∨ x.tstate = .starting) :
    decodeCmpA x = .rejected .cmpaOutsideMark := by
  unfold decodeCmpA
  rcases h with h | h <;> rw [h] <;> split <;> rfl

/-- An event that decodes to no row is handed to `rejectEvent`. -/
theorem deliver_of_decode_rejected {s : State} {e : Event} {r : Rejection}
    (hd : decode s.cfg s.context (.event e) = .rejected r) : deliver e s = rejectEvent r s := by
  rw [deliver, hd]

/-- A byte that is ignored: unarmed in AwaitingAddress, or while the block sends
(`42_serial_protocol.md` R108, R117). -/
theorem deliver_rxByte_ignored {s : State} (b : Byte)
    (h : (s.ser.pstate = .awaitingAddress ∧ s.ser.armed = false) ∨
      s.ser.pstate = .streamingReadData) : deliver (.rxByte b) s = .next (s.answer .none) := by
  rcases h with ⟨hp, ha⟩ | hp
  · have hd : decode s.cfg s.context (.event (.rxByte b)) = .rejected .unarmedByte := by
      simp [decode, decodeEvent, decodeByte, State.context, hp, ha]
    exact deliver_of_decode_rejected hd
  · have hd : decode s.cfg s.context (.event (.rxByte b)) = .rejected .byteWhileStreaming := by
      simp [decode, decodeEvent, decodeByte, State.context, hp]
    exact deliver_of_decode_rejected hd

/-- Settles O50: the decoder rejects the three events, and `rejectEvent` refuses the first and answers NONE
to the others. -/
theorem eventsWithNoRow : Obligations.EventsWithNoRow := by
  intro b s
  refine ⟨fun h => ?_, fun h => ⟨_, deliver_rxByte_ignored b h, rfl, rfl, answer_onlySerial s .none⟩⟩
  have hd : decode s.cfg s.context (.event .cmpA) = .rejected .cmpaOutsideMark :=
    decodeCmpA_of_not_sending h
  exact deliver_of_decode_rejected hd

/-! ## The output -/

/-- Settles O60: both outputs are functions of the carrier flag and the place in the tick period. -/
theorem outputIsGatedCarrier : Obligations.OutputIsGatedCarrier := by
  intro s num den
  refine ⟨rfl, ?_⟩
  rw [irOut, Bool.and_eq_true, irEnv, carrierHigh, decide_eq_true_iff]

end Sys2Proof.Machine
end

section
/-! PROOFS. The scheduler step in Stopped, and the two handlers that run it: TB.STOPMARK and TB.STOPPED
(`40_ir_frame_engine.md` R80, R81; `41_ir_scheduler.md` R90 to R94). -/

namespace Sys2Proof.Machine

/-- A scheduler step in Stopped leaves what R90, R91 and R94 say, with a selected channel's frame queued in
Starting. -/
theorem schedStep_scheduled {s : State} (h : s.ir.tstate = .stopped) :
    Scheduled s.reg s.ir.shreg .starting (schedStep s) := by
  obtain ⟨hne, _⟩ | ⟨_, k, hk, ⟨hb, ht⟩ | ⟨hb, ht⟩⟩ := schedStep_cases s
  · exact absurd h hne
  · rw [ht]
    exact ⟨countdownUpdate_get s.cfg s.reg, rfl, rfl, hk, by simp [hb]⟩
  · rw [ht]
    exact ⟨countdownUpdate_get s.cfg s.reg, rfl, rfl, hk, by simp [hb, h]⟩

/-- A frame that the step queued is started at once, and nothing else of what the step left changes
(`40_ir_frame_engine.md` R81). -/
theorem scheduled_startIfQueued {r : Registry} {w : CommandWord} {u : State}
    (h : Scheduled r w .starting u) : Scheduled r w .sendingStartMark (startIfQueued u) := by
  obtain ⟨hcd, hen, hpwm, hcur, hserve⟩ := h
  obtain ⟨hreg, _, _, hcfg, _⟩ := startIfQueued_frame u
  unfold Scheduled
  rw [hreg, hcfg]
  refine ⟨hcd, hen, hpwm, hcur, ?_⟩
  by_cases hsel : bitOf r.en u.reg.cur = true
  · rw [if_pos hsel] at hserve ⊢
    obtain ⟨hw, hst, hword⟩ := hserve
    rw [startIfQueued, if_pos hst]
    exact ⟨hw, rfl, hword⟩
  · rw [if_neg hsel] at hserve ⊢
    obtain ⟨hw, hst, hword⟩ := hserve
    rw [startIfQueued, if_neg (by simp [hst])]
    exact ⟨hw, hst, hword⟩

/-- The register map shows nothing of the registry but the status byte and the PWM bytes
(`43_serial_registers.md` R130). -/
theorem memRead_of_pwm_eq (c : Params) {r r' : Registry} {b : Byte} (hpwm : r'.pwm = r.pwm)
    (hb : b ≠ 0x42#8) : memRead c r' b = memRead c r b := by
  simp only [memRead, if_neg hb, hpwm]

/-- What a scheduler step does not reach: the serial side and the environment. -/
theorem schedStep_onlyInfrared (s : State) : OnlyInfrared s (schedStep s) := by
  obtain ⟨_, _, _, hser, hbus, hcfg, hin, hed⟩ := schedStep_frame s
  exact ⟨hser, hbus, hcfg, hin, hed⟩

/-- Settles O29: the scheduler step runs in Stopped, on the state with the trailing gap armed. -/
theorem tbStopmarkArmsTrailingGap : Obligations.TbStopmarkArmsTrailingGap := by
  intro s
  obtain ⟨_, hpwm, hir, _, _, hcfg, _⟩ := schedStep_frame (endFrame s)
  refine ⟨_, rfl, schedStep_scheduled (s := endFrame s) rfl, hir, fun b hb => ?_,
    schedStep_onlyInfrared (endFrame s)⟩
  rw [RegisterKept, hcfg]
  exact memRead_of_pwm_eq s.cfg hpwm hb

/-- Settles O30: the scheduler step runs in Stopped, on the state with the new slot begun, and a frame it
queues is started. -/
theorem tbStoppedPollsRegistry : Obligations.TbStoppedPollsRegistry := by
  intro s hst
  obtain ⟨honly, _⟩ := tbStopped_slotScheduled hst
  refine ⟨_, rfl, scheduled_startIfQueued (schedStep_scheduled (s := beginSlot s) hst), ?_,
    fun b hb => ?_, honly⟩
  · obtain ⟨k, ⟨hb, ht⟩ | ⟨hb, ht⟩⟩ := tbStopped_cases s hst
    · rw [ht, if_pos hb]; rfl
    · rw [ht, if_neg (by simp [hb])]; rfl
  · obtain ⟨k, ⟨_, ht⟩ | ⟨_, ht⟩⟩ := tbStopped_cases s hst
    all_goals
      rw [ht]
      exact memRead_of_pwm_eq s.cfg rfl hb

end Sys2Proof.Machine
end

section
/-! PROOFS. The command word's zero bits and the trailing gap (`40_ir_frame_engine.md` R70, R71, R83). -/

namespace Sys2Proof.Machine

/-! ## Zero bits, column by column -/

/-- A bit counted if it is 0. -/
def zeroBit (b : Bool) : Nat := if b then 0 else 1

/-- The 0 bits of column `i` of a word: of bit `i` of its four nibbles. -/
def columnZeros (w : CommandWord) (i : Nat) : Nat :=
  zeroBit (w.getLsbD i) + zeroBit (w.getLsbD (4 + i)) + zeroBit (w.getLsbD (8 + i)) +
    zeroBit (w.getLsbD (12 + i))

/-- Counting the 0 bits of a word from the top, after `k` bits: the next one is bit `15 - k`. -/
theorem topZeros_succ_shiftLeft (n k : Nat) (w : CommandWord) (hk : k ≤ 15) :
    topZeros (n + 1) (w <<< k) = zeroBit (w.getLsbD (15 - k)) + topZeros n (w <<< (k + 1)) := by
  have htop : (w <<< k).getLsbD 15 = w.getLsbD (15 - k) := by
    rw [BitVec.getLsbD_shiftLeft, decide_eq_false (by omega : ¬ 15 < k)]; simp
  rw [topZeros, htop, BitVec.shiftLeft_add]; rfl

/-- The zero bits of a word are those of its four columns. -/
theorem topZeros_eq_columns (w : CommandWord) :
    topZeros 16 w = columnZeros w 0 + columnZeros w 1 + columnZeros w 2 + columnZeros w 3 := by
  have h : topZeros 16 w = topZeros 16 (w <<< 0) := by rw [BitVec.shiftLeft_zero]
  rw [h]
  simp only [topZeros_succ_shiftLeft, Nat.reduceLeDiff, Nat.reduceAdd, Nat.reduceSub, columnZeros]
  rw [topZeros]
  omega

/-- The checksum makes the exclusive-or of the four nibbles 0xF (`30_encoding.md` R58), so every column has
an odd number of 1 bits. -/
theorem frameWord_column (c : Params) (ch : Chan) (p : Byte) {i : Nat} (hi : i < 4) :
    (frameWord c ch p).getLsbD i =
      (true ^^ (frameWord c ch p).getLsbD (12 + i) ^^ (frameWord c ch p).getLsbD (8 + i) ^^
        (frameWord c ch p).getLsbD (4 + i)) := by
  obtain ⟨hmarker, hchan, hdata, hsum, _⟩ := frameWord_fields c ch p
  rw [← hmarker, ← hchan, ← hdata, checksum] at hsum
  have hbit := congrArg (fun v : BitVec 4 => v.getLsbD i) hsum
  have hF : (0xF : BitVec 4).getLsbD i = true := by interval_cases i <;> rfl
  simp only [BitVec.getLsbD_xor, hF, BitVec.getLsbD_extractLsb', hi, decide_true, Bool.true_and,
    Nat.zero_add] at hbit
  exact hbit

/-- Each column of a command word has one or three 0 bits. -/
theorem columnZeros_frameWord (c : Params) (ch : Chan) (p : Byte) {i : Nat} (hi : i < 4) :
    1 ≤ columnZeros (frameWord c ch p) i ∧ columnZeros (frameWord c ch p) i ≤ 3 := by
  have odd : ∀ x y z : Bool,
      1 ≤ zeroBit (true ^^ x ^^ y ^^ z) + zeroBit z + zeroBit y + zeroBit x ∧
        zeroBit (true ^^ x ^^ y ^^ z) + zeroBit z + zeroBit y + zeroBit x ≤ 3 := by decide
  rw [columnZeros, frameWord_column c ch p hi]
  exact odd _ _ _

/-- Settles O33: four columns with one to three 0 bits each. -/
theorem commandWordZeroRange : Obligations.CommandWordZeroRange := by
  intro c ch p
  have h0 := columnZeros_frameWord c ch p (i := 0) (by decide)
  have h1 := columnZeros_frameWord c ch p (i := 1) (by decide)
  have h2 := columnZeros_frameWord c ch p (i := 2) (by decide)
  have h3 := columnZeros_frameWord c ch p (i := 3) (by decide)
  rw [InZeroRange, topZeros_eq_columns]
  omega

/-! ## The trailing gap -/

/-- The 16 data bits' symbols and the saving of the zero bits make up sixteen 1-bit symbols. -/
theorem dataSymbols_add_saving {c : Params} {z : Nat} (hgap : c.tGap0 ≤ c.tGap1) (hz : z ≤ 16) :
    z * bitSymbol c false + (16 - z) * bitSymbol c true + z * (c.tGap1 - c.tGap0) =
      16 * (c.tMark + c.tGap1) := by
  obtain ⟨d, hd⟩ := Nat.exists_eq_add_of_le hgap
  obtain ⟨k, hk⟩ := Nat.exists_eq_add_of_le hz
  have hsave : c.tGap1 - c.tGap0 = d := by omega
  have hrest : 16 - z = k := by omega
  rw [hsave, hrest, hk, hd]
  simp only [bitSymbol, hd, if_true, Bool.false_eq_true, if_false]
  ring

/-- Settles O34: Trailing(z) is what sixteen 1-bit symbols leave of the frame, and what the 0 bits save. -/
theorem trailingGapCompletesFrame : Obligations.TrailingGapCompletesFrame := by
  intro c z ht hz
  obtain ⟨_, _, hgap, _, hfits, _⟩ := ht
  have hsum := dataSymbols_add_saving hgap.le hz
  rw [trailing, edgeSymbol]
  omega

end Sys2Proof.Machine
end

section
/-! PROOFS. What one timer event does to the IR engine: the end of a mark (CMPA) and the boundaries of a
slot (CMPB), once each (`40_ir_frame_engine.md` R73 to R81), and what it does to the zero count. -/

namespace Sys2Proof.Machine

/-! ## The end of a mark -/

/-- A symbol of a frame is being sent: the states in which the timer can raise CMPA
(`40_ir_frame_engine.md` R84). -/
def Marking (e : IrEngine) : Prop := e.tstate ≠ .stopped ∧ e.tstate ≠ .starting

theorem marking_cases {e : IrEngine} (h : Marking e) :
    e.tstate = .sendingStartMark ∨ e.tstate = .sendingBit ∨ e.tstate = .sendingStopMark := by
  obtain ⟨hstopped, hstarting⟩ := h
  cases ht : e.tstate with
  | stopped => exact absurd ht hstopped
  | starting => exact absurd ht hstarting
  | sendingStartMark => exact .inl rfl
  | sendingBit => exact .inr (.inl rfl)
  | sendingStopMark => exact .inr (.inr rfl)

theorem not_marking_iff {e : IrEngine} : ¬ Marking e ↔ e.tstate = .stopped ∨ e.tstate = .starting := by
  unfold Marking; tauto

/-- The length of the symbol being sent (`30_encoding.md` R60). -/
def symbolLength (c : Params) (e : IrEngine) : Nat :=
  if e.tstate = .sendingBit then bitSymbol c e.bitval else edgeSymbol c

/-- Every CMPA is the same end of a mark, with the boundary set to the symbol's length
(`40_ir_frame_engine.md` R75, R77, R79). -/
theorem deliver_cmpA_endMark {s t : State} (h : deliver .cmpA s = .next t) :
    s.ir.carrierOn = true ∧ Marking s.ir ∧
      t = { s with ir := endMark (symbolLength s.cfg s.ir) s.ir } := by
  obtain ⟨hon, ⟨hst | hst, ht⟩ | ⟨hst, ht⟩⟩ := deliver_cmpA_cases h
  all_goals exact ⟨hon, by simp [Marking, hst], by simp [ht, symbolLength, hst]⟩

/-- In a symbol of a frame with the carrier on CMPA has a row, which completes. -/
theorem compareA_completes {s : State} (hon : s.ir.carrierOn = true) (hm : Marking s.ir) :
    ∃ t, compareA s = .next t := by
  have hon' : s.context.carrierOn = true := hon
  unfold compareA decodeCmpA
  rw [if_pos hon']
  rcases marking_cases hm with h | h | h
  all_goals
    have hst : s.context.tstate = _ := h
    rw [hst]
    exact ⟨_, rfl⟩

/-! ## The boundaries of a slot -/

/-- A command word of some channel and PWM byte (`40_ir_frame_engine.md` R70). -/
def IsCommandWord (w : CommandWord) : Prop := ∃ c ch p, w = frameWord c ch p

/-- What a CMPB makes of the engine `e`: a frame starts, at a slot's end; an idle slot begins; the first
bit, the next bit or the stop mark begins; the trailing gap begins, with the next frame queued or not
(`40_ir_frame_engine.md` R74, R76, R78, R80, R81). -/
inductive Boundary (c : Params) (e : IrEngine) : IrEngine → Prop where
  | startFrame {f : IrEngine} (hslot : ¬ Marking e)
      (hword : IsCommandWord f.shreg ∨ e.tstate = .starting ∧ f.shreg = e.shreg) :
      Boundary c e (beginFrame c f)
  | idleSlot (hst : e.tstate = .stopped) : Boundary c e { e with tcnt := 0, cmpb := ticks c.tFrame }
  | firstBit (hst : e.tstate = .sendingStartMark) :
      Boundary c e (beginMark c { latchBit e with bitpos := 15, tstate := .sendingBit })
  | nextBit (hst : e.tstate = .sendingBit) (hpos : e.bitpos ≠ 0) :
      Boundary c e (beginMark c { latchBit e with bitpos := e.bitpos - 1, tstate := .sendingBit })
  | stopMark (hst : e.tstate = .sendingBit) (hpos : e.bitpos = 0) :
      Boundary c e (beginMark c { e with tstate := .sendingStopMark })
  | trailingGap {w : CommandWord} {st : TState} (hst : e.tstate = .sendingStopMark)
      (hqueue : st = .stopped ∨ st = .starting ∧ IsCommandWord w) :
      Boundary c e { e with
        tcnt := 0, cmpb := ticks (trailing c e.zeros.toNat), tstate := st, shreg := w }

/-- TB.STOPPED ends a slot (`40_ir_frame_engine.md` R81). -/
theorem tbStopped_boundary {s : State} (hst : s.ir.tstate = .stopped) :
    Boundary s.cfg s.ir (startIfQueued (schedStep (beginSlot s))).ir := by
  obtain ⟨k, ⟨_, ht⟩ | ⟨_, ht⟩⟩ := tbStopped_cases s hst <;> rw [ht]
  · exact .startFrame (not_marking_iff.2 (.inl hst)) (.inl ⟨_, _, _, rfl⟩)
  · exact .idleSlot hst

/-- TB.STOPMARK begins the trailing gap (`40_ir_frame_engine.md` R80). -/
theorem tbStopmark_boundary {s : State} (hst : s.ir.tstate = .sendingStopMark) :
    Boundary s.cfg s.ir (schedStep (endFrame s)).ir := by
  obtain ⟨k, ⟨_, ht⟩ | ⟨_, ht⟩⟩ := tbStopmark_cases s <;> rw [ht]
  · exact .trailingGap hst (.inr ⟨rfl, _, _, _, rfl⟩)
  · exact .trailingGap hst (.inl rfl)

/-- Every CMPB is a boundary, reached in a gap. -/
theorem deliver_cmpB_boundary {s t : State} (h : deliver .cmpB s = .next t) :
    s.ir.carrierOn = false ∧ Boundary s.cfg s.ir t.ir := by
  obtain ⟨hoff, hcases⟩ := deliver_cmpB_cases h
  refine ⟨hoff, ?_⟩
  obtain ⟨hst, rfl⟩ | ⟨hst, rfl⟩ | ⟨hst, rfl⟩ | ⟨hst, hpos, rfl⟩ | ⟨hst, hpos, rfl⟩ | ⟨hst, rfl⟩ := hcases
  · exact tbStopped_boundary hst
  · exact .startFrame (not_marking_iff.2 (.inr hst)) (.inr ⟨hst, rfl⟩)
  · exact .firstBit hst
  · have hbit := Boundary.nextBit (c := s.cfg) hst ((BitVec.pos_iff_ne_zero _).1 hpos)
    rwa [← hst] at hbit
  · exact .stopMark hst (not_not.1 (mt (BitVec.pos_iff_ne_zero _).2 hpos))
  · exact tbStopmark_boundary hst

/-- In a gap CMPB has a row in every state of the frame engine, which completes. -/
theorem deliver_cmpB_completes {s : State} (hoff : s.ir.carrierOn = false) :
    ∃ t, deliver .cmpB s = .next t := by
  have hoff' : s.context.carrierOn = false := hoff
  simp only [deliver, decode, decodeEvent, decodeCmpB, hoff', Bool.false_eq_true, if_false]
  cases s.context.tstate with
  | sendingBit =>
    by_cases hpos : s.ir.bitpos = 0
    · exact ⟨_, execTbBit_of_zero hpos⟩
    · exact ⟨_, execTbBit_of_pos hpos⟩
  | stopped | starting | sendingStartMark | sendingStopMark => exact ⟨_, rfl⟩

/-! ## The count of 0 bits -/

/-- A latched 0 bit is counted; the count of up to 16 does not wrap (`10_state.md` R18). -/
theorem countZero_toNat {z : BitVec 5} (hz : z.toNat ≤ 16) (b : Bool) :
    (countZero z b).toNat = z.toNat + zeroBit b := by
  cases b with
  | true => rfl
  | false =>
    show (z + 1).toNat = z.toNat + 1
    bv_omega

theorem zerosInv_iff_of_sendingBit {e : IrEngine} (h : e.tstate = .sendingBit) :
    ZerosInv e ↔ e.zeros.toNat ≤ 16 ∧
      if e.bitval then e.zeros.toNat + e.bitpos.toNat ≤ 15
      else 1 ≤ e.zeros.toNat ∧ e.zeros.toNat + e.bitpos.toNat ≤ 16 := by
  simp [ZerosInv, h]

/-- Outside the start mark and the data bits the count of 0 bits only stays within the word. -/
theorem zerosInv_of_le {e : IrEngine} (hmark : e.tstate ≠ .sendingStartMark)
    (hbit : e.tstate ≠ .sendingBit) (hz : e.zeros.toNat ≤ 16) : ZerosInv e :=
  ⟨hz, fun h => absurd h hmark, fun h => absurd h hbit⟩

/-- The latched bits, the one being sent among them, and the bits below it are 16. -/
theorem ZerosInv.zeros_add_bitpos_le {e : IrEngine} (h : ZerosInv e) (hst : e.tstate = .sendingBit) :
    e.zeros.toNat + e.bitpos.toNat ≤ 16 := by
  obtain ⟨_, hpos⟩ := (zerosInv_iff_of_sendingBit hst).1 h
  split at hpos <;> omega

/-- A latched bit `p` leaves `p` bits and no more 0 bits than bits latched. -/
theorem zerosInv_latchBit {c : Params} {e : IrEngine} {p : BitVec 4}
    (h : e.zeros.toNat + p.toNat ≤ 15) :
    ZerosInv (beginMark c { latchBit e with bitpos := p, tstate := .sendingBit }) := by
  have hcount : (countZero e.zeros (e.shreg.getLsbD 15)).toNat = _ := countZero_toNat (by omega) _
  refine (zerosInv_iff_of_sendingBit rfl).2 ?_
  simp only [beginMark_zeros, beginMark_bitval, beginMark_bitpos, latchBit_zeros, latchBit_bitval, hcount]
  cases e.shreg.getLsbD 15 with
  | true => simp [zeroBit]; omega
  | false => simp [zeroBit]; omega

/-- The bits below the one being sent leave room for the next bit to be a 0. -/
theorem ZerosInv.zeros_add_pred_bitpos_le {e : IrEngine} (h : ZerosInv e) (hst : e.tstate = .sendingBit)
    (hpos : e.bitpos ≠ 0) : e.zeros.toNat + (e.bitpos - 1).toNat ≤ 15 := by
  have hle := h.zeros_add_bitpos_le hst
  bv_omega

/-- Every boundary keeps the count of 0 bits in its range. -/
theorem Boundary.zerosInv {c : Params} {e e' : IrEngine} (hb : Boundary c e e') (h : ZerosInv e) :
    ZerosInv e' := by
  have hz : e.zeros.toNat ≤ 16 := h.1
  cases hb with
  | startFrame => exact ⟨Nat.zero_le _, fun _ => rfl, nofun⟩
  | idleSlot hst => exact zerosInv_of_le (by simp [hst]) (by simp [hst]) hz
  | firstBit hst =>
    have hzero : e.zeros.toNat = 0 := h.2.1 hst
    exact zerosInv_latchBit (by rw [hzero]; decide)
  | nextBit hst hpos => exact zerosInv_latchBit (h.zeros_add_pred_bitpos_le hst hpos)
  | stopMark => exact zerosInv_of_le nofun nofun hz
  | trailingGap _ hqueue =>
    obtain rfl | ⟨rfl, _⟩ := hqueue <;> exact zerosInv_of_le nofun nofun hz

end Sys2Proof.Machine
end

section
/-! PROOFS. The zero count of the frame queued or in flight (`40_ir_frame_engine.md` R83). -/

namespace Sys2Proof.Machine

/-- A command word queued has between 4 and 12 zero bits (`40_ir_frame_engine.md` R83). -/
theorem IsCommandWord.inZeroRange {w : CommandWord} (h : IsCommandWord w) :
    InZeroRange (topZeros 16 w) := by
  obtain ⟨c, ch, p, rfl⟩ := h
  exact commandWordZeroRange c ch p

/-- The zero count reads the IR engine only. -/
theorem zeroCountInv_congr {s t : State} (h : t.ir = s.ir) : ZeroCountInv t ↔ ZeroCountInv s := by
  rw [ZeroCountInv, h, ZeroCountInv]

/-- Latching a bit moves it from the bits to send to the bits sent. -/
theorem zeros_add_topZeros_latchBit {e : IrEngine} {n : Nat} (hz : e.zeros.toNat ≤ 16) :
    (latchBit e).zeros.toNat + topZeros n (latchBit e).shreg =
      e.zeros.toNat + topZeros (n + 1) e.shreg := by
  rw [latchBit_zeros, countZero_toNat hz, latchBit_shreg, topZeros, zeroBit]
  omega

/-- Every boundary keeps the zero count: a frame is queued with a command word, and each bit latched leaves
the sum as it was. -/
theorem Boundary.zeroCountInv {s : State} {e' : IrEngine} (hb : Boundary s.cfg s.ir e')
    (h : ZeroCountInv s) : ZeroCountInv { s with ir := e' } := by
  obtain ⟨hzeros, hrange⟩ := h
  refine ⟨hb.zerosInv hzeros, ?_⟩
  have hz : s.ir.zeros.toNat ≤ 16 := hzeros.1
  cases hb with
  | startFrame _ hword =>
    obtain hword | ⟨hst, hword⟩ := hword
    · exact hword.inZeroRange
    · simp only [hst] at hrange
      simpa [hword] using hrange
  | idleSlot hst => simp [hst]
  | firstBit hst =>
    have hzero : s.ir.zeros.toNat = 0 := hzeros.2.1 hst
    have hlatch := zeros_add_topZeros_latchBit (n := 15) hz
    simp only [hst] at hrange
    show InZeroRange ((latchBit s.ir).zeros.toNat + topZeros 15 (latchBit s.ir).shreg)
    rwa [hlatch, hzero, Nat.zero_add]
  | nextBit hst hpos =>
    have hlatch := zeros_add_topZeros_latchBit (n := (s.ir.bitpos - 1).toNat) hz
    have hpred : (s.ir.bitpos - 1).toNat + 1 = s.ir.bitpos.toNat := by bv_omega
    simp only [hst] at hrange
    show InZeroRange ((latchBit s.ir).zeros.toNat +
      topZeros (s.ir.bitpos - 1).toNat (latchBit s.ir).shreg)
    rwa [hlatch, hpred]
  | stopMark hst hpos =>
    simp only [hst, hpos] at hrange
    exact hrange
  | trailingGap _ hqueue =>
    obtain rfl | ⟨rfl, hword⟩ := hqueue
    · trivial
    · exact hword.inZeroRange

/-- Every delivered event keeps the zero count: only CMPB reaches the word, the count and the state. -/
theorem deliver_keeps_zeroCountInv {e : Event} {s t : State} (hs : ZeroCountInv s)
    (h : deliver e s = .next t) : ZeroCountInv t := by
  by_cases he : SerialEvent e
  · obtain ⟨hir, _⟩ := deliver_serial_infraredKept he h
    exact (zeroCountInv_congr hir).2 hs
  · obtain rfl | rfl := not_serialEvent_iff.1 he
    · obtain ⟨_, _, rfl⟩ := deliver_cmpA_endMark h
      exact hs
    · obtain ⟨_, hb⟩ := deliver_cmpB_boundary h
      exact (zeroCountInv_congr rfl).2 (hb.zeroCountInv hs)

/-- Settles O42: reset empties the engine, and the queue, the bit layer and the timer's count do not matter
to the zero count. -/
theorem stepKeepsZeroCountInv : Obligations.StepKeepsZeroCountInv := by
  intro s t hs h
  have hev : ∀ e s t, ZeroCountInv s → deliver e s = .next t → ZeroCountInv t :=
    fun _ _ _ => deliver_keeps_zeroCountInv
  exact step_keeps (P := ZeroCountInv) (fun _ _ _ hu => hu) (fun u _ => resetWith_zeroCountInv u.cfg)
    (fun _ _ _ => timerEdge_keeps (fun _ _ hu => hu) hev) (fun _ _ hu => hu) hev hs h

end Sys2Proof.Machine
end

section
/-! PROOFS. The timer's invariant: the count is below the compare value armed (`40_ir_frame_engine.md` R72,
R84, R87). -/

namespace Sys2Proof.Machine

/-! ## The lengths within a frame -/

/-- A symbol's mark ends before the symbol, and the symbol before the slot (R6). -/
theorem symbolLength_bounds {c : Params} (ht : c.TimingValid) (e : IrEngine) :
    c.tMark < symbolLength c e ∧ symbolLength c e < c.tFrame := by
  obtain ⟨_, _, _, _, hfits, _⟩ := ht
  unfold symbolLength bitSymbol edgeSymbol
  split_ifs <;> omega

/-- A time within the slot fits the compare registers (D33). -/
theorem ticks_toNat {c : Params} (ht : c.TimingValid) {n : Nat} (hn : n ≤ c.tFrame) :
    (ticks n).toNat = n := by
  obtain ⟨_, _, _, _, _, hwidth⟩ := ht
  rw [ticks, BitVec.toNat_ofNat]
  omega

/-- The trailing gap is a part of the slot (`40_ir_frame_engine.md` R71). -/
theorem trailing_bounds {c : Params} (ht : c.TimingValid) {z : Nat} (hz : z ≤ 16) :
    1 ≤ trailing c z ∧ trailing c z ≤ c.tFrame := by
  obtain ⟨hpos, hsum⟩ := trailingGapCompletesFrame c z ht hz
  omega

/-! ## The invariant in a mark and in a gap -/

/-- In a mark: a symbol of a frame is being sent and the count is below T_MARK. -/
theorem timerInv_iff_of_mark {s : State} (hon : s.ir.carrierOn = true) :
    TimerInv s ↔ ZerosInv s.ir ∧ Marking s.ir ∧ s.ir.cmpa.toNat = s.cfg.tMark ∧
      s.ir.tcnt.toNat < s.ir.cmpa.toNat := by
  simp [TimerInv, Marking, hon]

/-- In a gap: the boundary compare is that of the symbol, the trailing gap or the idle slot, and the count
is below it. -/
theorem timerInv_iff_of_gap {s : State} (hoff : s.ir.carrierOn = false) :
    TimerInv s ↔ ZerosInv s.ir ∧ GapInv s.cfg s.ir ∧ s.ir.tcnt.toNat < s.ir.cmpb.toNat := by
  simp [TimerInv, hoff]

/-- In the gap of a symbol the boundary is the symbol's length. -/
theorem gapInv_iff_of_marking {c : Params} {e : IrEngine} (hm : Marking e) :
    GapInv c e ↔ e.cmpb.toNat = symbolLength c e := by
  rcases marking_cases hm with h | h | h <;> simp [GapInv, symbolLength, h]

/-- Outside the symbols the boundary is at most a slot away. -/
theorem gapInv_iff_of_not_marking {c : Params} {e : IrEngine} (hm : ¬ Marking e) :
    GapInv c e ↔ e.cmpb.toNat ≤ c.tFrame := by
  rcases not_marking_iff.1 hm with h | h <;> simp [GapInv, h]

/-- Outside the symbols the timer counts a part of a slot (`40_ir_frame_engine.md` R84). -/
theorem TimerInv.gap_of_not_marking {s : State} (hs : TimerInv s) (hm : ¬ Marking s.ir) :
    s.ir.cmpb.toNat ≤ s.cfg.tFrame ∧ s.ir.tcnt.toNat < s.ir.cmpb.toNat := by
  have hoff : s.ir.carrierOn = false := hs.2.1 (not_marking_iff.1 hm)
  obtain ⟨_, hgap, hcount⟩ := (timerInv_iff_of_gap hoff).1 hs
  exact ⟨(gapInv_iff_of_not_marking hm).1 hgap, hcount⟩

/-- The timer's invariant reads the configuration and the IR engine only. -/
theorem timerInv_congr {s t : State} (hcfg : t.cfg = s.cfg) (hir : t.ir = s.ir) :
    TimerInv t ↔ TimerInv s := by
  rw [TimerInv, hcfg, hir, TimerInv]

/-- A mark that begins meets the invariant (`40_ir_frame_engine.md` R73). -/
theorem timerInv_beginMark {s : State} (ht : s.cfg.TimingValid) {e : IrEngine}
    (hz : ZerosInv (beginMark s.cfg e)) (hm : Marking e) :
    TimerInv { s with ir := beginMark s.cfg e } := by
  obtain ⟨hmark, hframe⟩ := symbolLength_bounds ht e
  have hcmpa : (ticks s.cfg.tMark).toNat = s.cfg.tMark := ticks_toNat ht (by omega)
  have hpos : 0 < s.cfg.tMark := ht.1
  exact (timerInv_iff_of_mark rfl).2 ⟨hz, hm, hcmpa, hcmpa.symm ▸ hpos⟩

/-- A mark that ends, at T_MARK or before, meets the invariant (`40_ir_frame_engine.md` R75, R77, R79). -/
theorem timerInv_endMark {s : State} (ht : s.cfg.TimingValid) (hz : ZerosInv s.ir) (hm : Marking s.ir)
    (hcount : s.ir.tcnt.toNat ≤ s.cfg.tMark) :
    TimerInv { s with ir := endMark (symbolLength s.cfg s.ir) s.ir } := by
  obtain ⟨hmark, hframe⟩ := symbolLength_bounds ht s.ir
  have hcmpb : (ticks (symbolLength s.cfg s.ir)).toNat = symbolLength s.cfg s.ir :=
    ticks_toNat ht hframe.le
  refine (timerInv_iff_of_gap rfl).2 ⟨hz, (gapInv_iff_of_marking (e := endMark _ s.ir) hm).2 hcmpb, ?_⟩
  show s.ir.tcnt.toNat < (ticks (symbolLength s.cfg s.ir)).toNat
  omega

/-- A trailing gap or an idle slot of `n` ticks that begins meets the invariant
(`40_ir_frame_engine.md` R80, R81). -/
theorem timerInv_beginGap {s : State} (ht : s.cfg.TimingValid) {e : IrEngine} {n : Nat} (hz : ZerosInv e)
    (hm : ¬ Marking e) (hoff : e.carrierOn = false) (htcnt : e.tcnt = 0) (hcmpb : e.cmpb = ticks n)
    (hpos : 1 ≤ n) (hn : n ≤ s.cfg.tFrame) : TimerInv { s with ir := e } := by
  have hnat : e.cmpb.toNat = n := hcmpb ▸ ticks_toNat ht hn
  refine (timerInv_iff_of_gap hoff).2 ⟨hz, (gapInv_iff_of_not_marking hm).2 (hnat.trans_le hn), ?_⟩
  show e.tcnt.toNat < e.cmpb.toNat
  rw [htcnt, hnat]
  exact hpos

/-! ## Events, edges, steps -/

/-- Every boundary arms the next compare above the count, which it clears. -/
theorem Boundary.timerInv {s : State} {e' : IrEngine} (ht : s.cfg.TimingValid)
    (hb : Boundary s.cfg s.ir e') (hoff : s.ir.carrierOn = false) (h : ZerosInv s.ir) :
    TimerInv { s with ir := e' } := by
  have hz' : ZerosInv e' := hb.zerosInv h
  cases hb with
  | startFrame => exact timerInv_beginMark ht hz' ⟨nofun, nofun⟩
  | idleSlot hst =>
    exact timerInv_beginGap ht hz' (not_marking_iff.2 (.inl hst)) hoff rfl rfl
      (ticks_tFrame_toNat ht).2 le_rfl
  | firstBit => exact timerInv_beginMark ht hz' ⟨nofun, nofun⟩
  | nextBit => exact timerInv_beginMark ht hz' ⟨nofun, nofun⟩
  | stopMark => exact timerInv_beginMark ht hz' ⟨nofun, nofun⟩
  | trailingGap _ hqueue =>
    obtain ⟨hpos, hle⟩ := trailing_bounds ht h.1
    exact timerInv_beginGap ht hz' (not_marking_iff.2 (hqueue.imp_right And.left)) hoff rfl rfl hpos hle

/-- The configuration is written by no event (`10_state.md` R25). -/
theorem deliver_cfg {e : Event} {s t : State} (h : deliver e s = .next t) : t.cfg = s.cfg := by
  by_cases he : SerialEvent e
  · obtain ⟨_, _, hcfg, _⟩ := deliver_serial_infraredKept he h
    exact hcfg
  · obtain ⟨⟨_, _, hcfg, _⟩, _⟩ := deliver_timer_cases he h
    exact hcfg

/-- Every delivered event keeps the timer's invariant, wherever in its symbol the engine is. -/
theorem deliver_keeps_timerInv {e : Event} {s t : State} (ht : s.cfg.TimingValid) (hs : TimerInv s)
    (h : deliver e s = .next t) : TimerInv t := by
  have hcfg := deliver_cfg h
  by_cases he : SerialEvent e
  · obtain ⟨hir, _⟩ := deliver_serial_infraredKept he h
    exact (timerInv_congr hcfg hir).2 hs
  · obtain rfl | rfl := not_serialEvent_iff.1 he
    · obtain ⟨hon, hm, rfl⟩ := deliver_cmpA_endMark h
      obtain ⟨hz, _, hcmpa, hcount⟩ := (timerInv_iff_of_mark hon).1 hs
      exact timerInv_endMark ht hz hm (by omega)
    · obtain ⟨hoff, hb⟩ := deliver_cmpB_boundary h
      exact (timerInv_congr (s := { s with ir := t.ir }) hcfg rfl).2 (hb.timerInv ht hoff hs.1)

/-- A tick that does not reach the armed compare leaves the count below it. -/
theorem timerInv_setTcnt {s : State} (hs : TimerInv s)
    (ha : s.ir.carrierOn = true → s.ir.tcnt + 1 ≠ s.ir.cmpa)
    (hb : s.ir.carrierOn = false → s.ir.tcnt + 1 ≠ s.ir.cmpb) :
    TimerInv (setTcnt (s.ir.tcnt + 1) s) := by
  cases hc : s.ir.carrierOn with
  | true =>
    obtain ⟨hz, hm, hcmpa, hcount⟩ := (timerInv_iff_of_mark hc).1 hs
    have hne := ha hc
    refine (timerInv_iff_of_mark (s := setTcnt (s.ir.tcnt + 1) s) hc).2 ⟨hz, hm, hcmpa, ?_⟩
    show (s.ir.tcnt + 1).toNat < s.ir.cmpa.toNat
    bv_omega
  | false =>
    obtain ⟨hz, hgap, hcount⟩ := (timerInv_iff_of_gap hc).1 hs
    have hne := hb hc
    refine (timerInv_iff_of_gap (s := setTcnt (s.ir.tcnt + 1) s) hc).2 ⟨hz, hgap, ?_⟩
    show (s.ir.tcnt + 1).toNat < s.ir.cmpb.toNat
    bv_omega

/-- The timer's part of a clk edge keeps its invariant (`40_ir_frame_engine.md` R72). -/
theorem timerEdge_keeps_timerInv {p : Ports} {s t : State} (ht : s.cfg.TimingValid) (hs : TimerInv s)
    (h : timerEdge p s = .next t) : TimerInv t := by
  obtain ⟨_, rfl⟩ | ⟨_, hon, hmatch, h⟩ | ⟨_, _, _, h⟩ | ⟨_, ha, hb, rfl⟩ := timerEdge_cases h
  · exact hs
  · obtain ⟨_, hm, rfl⟩ := deliver_cmpA_endMark h
    obtain ⟨hz, _, hcmpa, _⟩ := (timerInv_iff_of_mark hon).1 hs
    refine timerInv_endMark (s := setTcnt _ s) ht hz hm ?_
    show (s.ir.tcnt + 1).toNat ≤ s.cfg.tMark
    rw [hmatch, hcmpa]
  · exact deliver_keeps_timerInv ht hs h
  · exact timerInv_setTcnt hs ha hb

theorem timerEdge_cfg {p : Ports} {s t : State} (h : timerEdge p s = .next t) : t.cfg = s.cfg :=
  timerEdge_keeps (P := fun u => u.cfg = s.cfg) (fun _ _ hu => hu)
    (fun _ _ _ hu h => (deliver_cfg h).trans hu) rfl h

/-- Settles O41: the invariant is kept together with the timing constraints, which the configuration meets
throughout. -/
theorem stepKeepsTimerInv : Obligations.StepKeepsTimerInv := by
  intro s t ht hs h
  refine (step_keeps (P := fun u => u.cfg.TimingValid ∧ TimerInv u) (fun _ _ _ hu => hu) ?_ ?_
    (fun _ _ hu => hu) ?_ ⟨ht, hs⟩ h).2
  · rintro u ⟨htu, _⟩
    exact ⟨htu, resetWith_timerInv htu⟩
  · rintro p u v ⟨htu, hu⟩ hv
    exact ⟨timerEdge_cfg hv ▸ htu, timerEdge_keeps_timerInv htu hu hv⟩
  · rintro e u v ⟨htu, hu⟩ hv
    exact ⟨deliver_cfg hv ▸ htu, deliver_keeps_timerInv htu hu hv⟩

end Sys2Proof.Machine
end

section
/-! PROOFS. The time within the slot: one tick moves it by one, and a frame starts only where a slot does
(`40_ir_frame_engine.md` R82). -/

namespace Sys2Proof.Machine

/-! ## The time of the present symbol, gap or slot -/

/-- Outside the symbols the time within the slot is what the armed gap leaves of it. -/
theorem slotTime_of_not_marking (c : Params) {e : IrEngine} (hm : ¬ Marking e) :
    slotTime c e = c.tFrame - e.cmpb.toNat + e.tcnt.toNat := by
  rcases not_marking_iff.1 hm with h | h <;> simp [slotTime, h]

/-- A trailing gap or an idle slot of `n` ticks begins `n` ticks before the slot's end. -/
theorem slotTime_at_begin_of_gap {c : Params} (ht : c.TimingValid) {e : IrEngine} {n : Nat}
    (hm : ¬ Marking e) (htcnt : e.tcnt = 0) (hcmpb : e.cmpb = ticks n) (hn : n ≤ c.tFrame) :
    slotTime c e = c.tFrame - n := by
  rw [slotTime_of_not_marking c hm, htcnt, hcmpb, ticks_toNat ht hn]
  rfl

theorem slotTime_of_startMark (c : Params) {e : IrEngine} (h : e.tstate = .sendingStartMark) :
    slotTime c e = e.tcnt.toNat := by
  simp [slotTime, h]

/-- The 0 bits sent before the one being sent. -/
def zerosBefore (e : IrEngine) : Nat := if e.bitval then e.zeros.toNat else e.zeros.toNat - 1

theorem slotTime_of_bit (c : Params) {e : IrEngine} (h : e.tstate = .sendingBit) :
    slotTime c e = edgeSymbol c + zerosBefore e * bitSymbol c false +
      (15 - e.bitpos.toNat - zerosBefore e) * bitSymbol c true + e.tcnt.toNat := by
  simp only [slotTime, h, zerosBefore]

theorem slotTime_of_stopMark (c : Params) {e : IrEngine} (h : e.tstate = .sendingStopMark) :
    slotTime c e = edgeSymbol c + e.zeros.toNat * bitSymbol c false +
      (16 - e.zeros.toNat) * bitSymbol c true + e.tcnt.toNat := by
  simp only [slotTime, h]

/-- The count is the last part of the time within the slot. -/
theorem slotTime_with_tcnt (c : Params) (e : IrEngine) (n : Count) :
    slotTime c { e with tcnt := n } + e.tcnt.toNat = slotTime c e + n.toNat := by
  unfold slotTime
  cases e.tstate <;> dsimp only <;> omega

/-- The end of a mark is no step in time. -/
theorem slotTime_endMark (c : Params) {e : IrEngine} (hm : Marking e) (n : Nat) :
    slotTime c (endMark n e) = slotTime c e := by
  rcases marking_cases hm with h | h | h <;> simp only [slotTime, endMark_tstate, h] <;> rfl

/-- Where the mark of a latched bit begins: after the start symbol and the bits before it. -/
theorem slotTime_latchBit {c : Params} {e : IrEngine} (hz : e.zeros.toNat ≤ 16) (p : BitVec 4) :
    slotTime c (beginMark c { latchBit e with bitpos := p, tstate := .sendingBit }) =
      edgeSymbol c + e.zeros.toNat * bitSymbol c false +
        (15 - p.toNat - e.zeros.toNat) * bitSymbol c true := by
  have hbefore : zerosBefore (beginMark c { latchBit e with bitpos := p, tstate := .sendingBit }) =
      e.zeros.toNat := by
    simp only [zerosBefore, beginMark_bitval, beginMark_zeros, latchBit_bitval, latchBit_zeros,
      countZero_toNat hz]
    cases e.shreg.getLsbD 15 <;> simp [zeroBit]
  rw [slotTime_of_bit c rfl, hbefore]
  simp

/-- Where a data bit's symbol ends: the bits sent, it among them, are `16 - bitpos`. -/
theorem slotTime_at_end_of_bit {c : Params} {e : IrEngine} (hst : e.tstate = .sendingBit)
    (hz : ZerosInv e) (hend : e.tcnt.toNat + 1 = bitSymbol c e.bitval) :
    slotTime c e + 1 = edgeSymbol c + e.zeros.toNat * bitSymbol c false +
      (16 - e.bitpos.toNat - e.zeros.toNat) * bitSymbol c true := by
  obtain ⟨_, hpos⟩ := (zerosInv_iff_of_sendingBit hst).1 hz
  rw [slotTime_of_bit c hst]
  cases hv : e.bitval with
  | true =>
    simp only [hv, if_true] at hpos hend
    have hone : 16 - e.bitpos.toNat - e.zeros.toNat = 15 - e.bitpos.toNat - e.zeros.toNat + 1 := by omega
    simp only [zerosBefore, hv, if_true, hone, Nat.succ_mul]
    omega
  | false =>
    simp only [hv, Bool.false_eq_true, if_false] at hpos hend
    obtain ⟨z, hzero⟩ := Nat.exists_eq_add_of_le' hpos.1
    have hones : 16 - e.bitpos.toNat - (z + 1) = 15 - e.bitpos.toNat - z := by omega
    simp only [zerosBefore, hv, Bool.false_eq_true, if_false, hzero, Nat.add_sub_cancel, hones,
      Nat.succ_mul]
    omega

/-! ## The slot's length bounds the time within it -/

/-- At most 16 data bits take at most sixteen 1-bit symbols (R6: T_GAP0 is below T_GAP1). -/
theorem dataTime_le {c : Params} (hgap : c.tGap0 ≤ c.tGap1) {m k n : Nat} (h : m + k ≤ n) :
    m * bitSymbol c false + k * bitSymbol c true ≤ n * (c.tMark + c.tGap1) := by
  have hbit : bitSymbol c false ≤ c.tMark + c.tGap1 := Nat.add_le_add_left hgap _
  calc m * bitSymbol c false + k * bitSymbol c true
      ≤ m * (c.tMark + c.tGap1) + k * (c.tMark + c.tGap1) :=
        Nat.add_le_add_right (Nat.mul_le_mul_left m hbit) _
    _ = (m + k) * (c.tMark + c.tGap1) := (Nat.add_mul _ _ _).symm
    _ ≤ n * (c.tMark + c.tGap1) := Nat.mul_le_mul_right _ h

/-- In a symbol of a frame the count is below the symbol's length. -/
theorem tcnt_lt_symbolLength {s : State} (ht : s.cfg.TimingValid) (hs : TimerInv s)
    (hm : Marking s.ir) : s.ir.tcnt.toNat < symbolLength s.cfg s.ir := by
  obtain ⟨hmark, _⟩ := symbolLength_bounds ht s.ir
  cases hc : s.ir.carrierOn with
  | true =>
    obtain ⟨_, _, hcmpa, hcount⟩ := (timerInv_iff_of_mark hc).1 hs
    omega
  | false =>
    obtain ⟨_, hgap, hcount⟩ := (timerInv_iff_of_gap hc).1 hs
    rwa [(gapInv_iff_of_marking hm).1 hgap] at hcount

theorem slotTime_lt_of_bit {s : State} (ht : s.cfg.TimingValid) (hs : TimerInv s)
    (hst : s.ir.tstate = .sendingBit) : slotTime s.cfg s.ir < s.cfg.tFrame := by
  have hcount := tcnt_lt_symbolLength ht hs (by simp [Marking, hst])
  obtain ⟨_, _, hgap, _, hfits, _⟩ := ht
  have hbefore : zerosBefore s.ir + (15 - s.ir.bitpos.toNat - zerosBefore s.ir) ≤ 15 := by
    obtain ⟨_, hpos⟩ := (zerosInv_iff_of_sendingBit hst).1 hs.1
    unfold zerosBefore
    split_ifs at hpos ⊢ <;> omega
  have hdata := dataTime_le (c := s.cfg) hgap.le hbefore
  have hlast : symbolLength s.cfg s.ir ≤ s.cfg.tMark + s.cfg.tGap1 := by
    simp only [symbolLength, hst, if_true, bitSymbol]
    split_ifs <;> omega
  rw [slotTime_of_bit _ hst, edgeSymbol]
  omega

theorem slotTime_lt_of_stopMark {s : State} (ht : s.cfg.TimingValid) (hs : TimerInv s)
    (hst : s.ir.tstate = .sendingStopMark) : slotTime s.cfg s.ir < s.cfg.tFrame := by
  have hcount := tcnt_lt_symbolLength ht hs (by simp [Marking, hst])
  have hlen : symbolLength s.cfg s.ir = edgeSymbol s.cfg := by simp [symbolLength, hst]
  obtain ⟨⟨hz, _⟩, _⟩ := hs
  obtain ⟨_, hsum⟩ := trailingGapCompletesFrame s.cfg s.ir.zeros.toNat ht hz
  rw [slotTime_of_stopMark _ hst]
  omega

theorem slotTime_lt_of_not_marking {s : State} (hs : TimerInv s) (hm : ¬ Marking s.ir) :
    slotTime s.cfg s.ir < s.cfg.tFrame := by
  obtain ⟨hcmpb, hcount⟩ := hs.gap_of_not_marking hm
  rw [slotTime_of_not_marking _ hm]
  omega

/-- The time within the slot is below T_FRAME. -/
theorem slotTime_lt {s : State} (ht : s.cfg.TimingValid) (hs : TimerInv s) :
    slotTime s.cfg s.ir < s.cfg.tFrame := by
  by_cases hm : Marking s.ir
  · obtain hst | hst | hst := marking_cases hm
    · rw [slotTime_of_startMark _ hst]
      exact (tcnt_lt_symbolLength ht hs hm).trans (symbolLength_bounds ht s.ir).2
    · exact slotTime_lt_of_bit ht hs hst
    · exact slotTime_lt_of_stopMark ht hs hst
  · exact slotTime_lt_of_not_marking hs hm

/-! ## One tick -/

/-- A tick within a slot: the time moves by one, and no start mark begins. -/
def TicksWithin (c : Params) (e e' : IrEngine) : Prop :=
  slotTime c e' = slotTime c e + 1 ∧ (e'.tstate = .sendingStartMark → e.tstate = .sendingStartMark)

/-- The tick that ends a slot: the time is 0 again, and a start mark that begins has the carrier on. -/
def EndsSlot (c : Params) (e e' : IrEngine) : Prop :=
  slotTime c e + 1 = c.tFrame ∧ slotTime c e' = 0 ∧
    (e'.tstate = .sendingStartMark → e'.carrierOn = true)

/-- The tick that reaches `cmpb` outside the symbols is the slot's last. -/
theorem slotTime_at_end_of_slot {s : State} (hs : TimerInv s) (hm : ¬ Marking s.ir)
    (hend : s.ir.tcnt.toNat + 1 = s.ir.cmpb.toNat) : slotTime s.cfg s.ir + 1 = s.cfg.tFrame := by
  obtain ⟨hcmpb, _⟩ := hs.gap_of_not_marking hm
  rw [slotTime_of_not_marking _ hm]
  omega

/-- A boundary reached by the count: each begins at the time at which the symbol, gap or slot before it
ends. -/
theorem Boundary.slotTime_advances {s : State} {e' : IrEngine} (ht : s.cfg.TimingValid) (hs : TimerInv s)
    (hoff : s.ir.carrierOn = false) (hend : s.ir.tcnt.toNat + 1 = s.ir.cmpb.toNat)
    (hb : Boundary s.cfg s.ir e') : TicksWithin s.cfg s.ir e' ∨ EndsSlot s.cfg s.ir e' := by
  obtain ⟨hz, hgap, _⟩ := (timerInv_iff_of_gap hoff).1 hs
  cases hb with
  | startFrame hm => exact .inr ⟨slotTime_at_end_of_slot hs hm hend, rfl, fun _ => rfl⟩
  | idleSlot hst =>
    have hm : ¬ Marking s.ir := not_marking_iff.2 (.inl hst)
    refine .inr ⟨slotTime_at_end_of_slot hs hm hend, ?_, fun h => by simp [hst] at h⟩
    exact (slotTime_at_begin_of_gap (e := { s.ir with tcnt := 0, cmpb := ticks s.cfg.tFrame })
      ht hm rfl rfl le_rfl).trans (Nat.sub_self _)
  | firstBit hst =>
    have hlen : s.ir.cmpb.toNat = edgeSymbol s.cfg := by simpa [GapInv, hst] using hgap
    have hzero : s.ir.zeros.toNat = 0 := hz.2.1 hst
    refine .inl ⟨?_, nofun⟩
    rw [slotTime_latchBit hz.1, slotTime_of_startMark _ hst, hend, hlen, hzero]
    simp
  | nextBit hst hpos =>
    have hlen : s.ir.cmpb.toNat = bitSymbol s.cfg s.ir.bitval := by simpa [GapInv, hst] using hgap
    have hpred : 15 - (s.ir.bitpos - 1).toNat = 16 - s.ir.bitpos.toNat := by bv_omega
    refine .inl ⟨?_, nofun⟩
    rw [slotTime_latchBit hz.1, slotTime_at_end_of_bit hst hz (hend.trans hlen), hpred]
  | stopMark hst hpos =>
    have hlen : s.ir.cmpb.toNat = bitSymbol s.cfg s.ir.bitval := by simpa [GapInv, hst] using hgap
    refine .inl ⟨?_, nofun⟩
    rw [slotTime_of_stopMark _ rfl, slotTime_at_end_of_bit hst hz (hend.trans hlen), hpos]
    simp
  | trailingGap hst hqueue =>
    have hlen : s.ir.cmpb.toNat = edgeSymbol s.cfg := by simpa [GapInv, hst] using hgap
    obtain ⟨_, hsum⟩ := trailingGapCompletesFrame s.cfg s.ir.zeros.toNat ht hz.1
    obtain ⟨_, htrail⟩ := trailing_bounds ht hz.1
    refine .inl ⟨?_, fun h => ?_⟩
    · rw [slotTime_at_begin_of_gap ht (not_marking_iff.2 (hqueue.imp_right And.left)) rfl rfl htrail,
        slotTime_of_stopMark _ hst]
      omega
    · obtain rfl | ⟨rfl, _⟩ := hqueue <;> cases h

/-- A tick that does not wrap the count moves the time by one. -/
theorem slotTime_tick {c : Params} {e : IrEngine} (hcount : e.tcnt.toNat < 65535) :
    slotTime c { e with tcnt := e.tcnt + 1 } = slotTime c e + 1 := by
  have hsum := slotTime_with_tcnt c e (e.tcnt + 1)
  have hnext : (e.tcnt + 1).toNat = e.tcnt.toNat + 1 := by bv_omega
  omega

/-- The timer's invariant leaves the count room for the next tick. -/
theorem TimerInv.tcnt_lt {s : State} (hs : TimerInv s) : s.ir.tcnt.toNat < 65535 := by
  cases hc : s.ir.carrierOn with
  | true =>
    obtain ⟨_, _, _, hcount⟩ := (timerInv_iff_of_mark hc).1 hs
    have := s.ir.cmpa.isLt
    omega
  | false =>
    obtain ⟨_, _, hcount⟩ := (timerInv_iff_of_gap hc).1 hs
    have := s.ir.cmpb.isLt
    omega

/-- What the timer's part of a clk edge does to the time within the slot. -/
theorem timerEdge_slotTime {p : Ports} {s t : State} (ht : s.cfg.TimingValid) (hs : TimerInv s)
    (h : timerEdge p s = .next t) :
    (p.tick = false ∧ t.ir = s.ir) ∨
    (p.tick = true ∧ (TicksWithin s.cfg s.ir t.ir ∨ EndsSlot s.cfg s.ir t.ir)) := by
  have htick : slotTime s.cfg { s.ir with tcnt := s.ir.tcnt + 1 } = slotTime s.cfg s.ir + 1 :=
    slotTime_tick hs.tcnt_lt
  obtain ⟨hp, rfl⟩ | ⟨hp, _, _, h⟩ | ⟨hp, hoff, hmatch, h⟩ | ⟨hp, _, _, rfl⟩ := timerEdge_cases h
  · exact .inl ⟨hp, rfl⟩
  · obtain ⟨_, hm, rfl⟩ := deliver_cmpA_endMark h
    exact .inr ⟨hp, .inl ⟨(slotTime_endMark s.cfg hm _).trans htick, id⟩⟩
  · obtain ⟨_, hb⟩ := deliver_cmpB_boundary h
    have hend : s.ir.tcnt.toNat + 1 = s.ir.cmpb.toNat := by
      have hcount := hs.tcnt_lt
      bv_omega
    exact .inr ⟨hp, hb.slotTime_advances ht hs hoff hend⟩
  · exact .inr ⟨hp, .inl ⟨htick, id⟩⟩

/-! ## One clk edge -/

/-- In its invariant the timer's part of a clk edge completes: CMPA is raised in a symbol's mark only. -/
theorem timerEdge_completes {s : State} (hs : TimerInv s) (p : Ports) : ∃ t, timerEdge p s = .next t := by
  cases hp : p.tick with
  | false => exact ⟨_, timerEdge_of_not_tick s hp⟩
  | true =>
    by_cases ha : s.ir.carrierOn = true ∧ s.ir.tcnt + 1 = s.ir.cmpa
    · obtain ⟨hon, hmatch⟩ := ha
      obtain ⟨_, hm, _⟩ := (timerInv_iff_of_mark hon).1 hs
      rw [timerEdge_of_cmpA hp hon hmatch]
      exact compareA_completes (s := setTcnt _ s) hon hm
    · by_cases hb : s.ir.carrierOn = false ∧ s.ir.tcnt + 1 = s.ir.cmpb
      · obtain ⟨hoff, hmatch⟩ := hb
        rw [timerEdge_of_cmpB hp hoff hmatch]
        exact deliver_cmpB_completes hoff
      · exact ⟨_, timerEdge_of_no_match hp (fun x y => ha ⟨x, y⟩) (fun x y => hb ⟨x, y⟩)⟩

/-- The rising clock edge completes (`42_serial_protocol.md` R102). -/
theorem risingClock_completes (sda : Bool) (s : State) : ∃ t, risingClock sda s = .next t := by
  unfold risingClock
  split_ifs
  · obtain ⟨t, ht, _⟩ := deliver_serial_completes (e := .rxByte (clockBit sda s).bus.sreg)
      ⟨nofun, nofun⟩ (clockBit sda s)
    exact ⟨t, ht⟩
  · exact ⟨_, rfl⟩
  · obtain ⟨t, ht, _⟩ := deliver_serial_completes (e := .hack (hostAckOf sda)) ⟨nofun, nofun⟩ s
    exact ⟨endNinthClock t, by rw [ht]; rfl⟩
  · exact ⟨_, rfl⟩
  · exact ⟨_, rfl⟩

/-- The bit layer's part of a clk edge completes in every state (`60_exceptions.md` R165). -/
theorem serialEdge_completes (p : Ports) (s : State) : ∃ t, serialEdge p s = .next t := by
  unfold serialEdge
  cases lineChange s.bus p with
  | startCondition => exact ⟨_, rfl⟩
  | stopCondition => exact ⟨_, rfl⟩
  | risingEdge => exact risingClock_completes p.sdaIn _
  | fallingEdge => exact ⟨_, rfl⟩
  | quiet => exact ⟨_, rfl⟩

theorem serialEdge_cfg {p : Ports} {s t : State} (h : serialEdge p s = .next t) : t.cfg = s.cfg :=
  serialEdge_keeps (P := fun u => u.cfg = s.cfg) (fun _ _ hu => hu)
    (fun _ _ _ _ hu h => (deliver_cfg h).trans hu) rfl h

/-- All that the timer reads and writes within a slot is the same: the configuration and the IR engine. -/
def SameTimer (s t : State) : Prop := t.cfg = s.cfg ∧ t.ir = s.ir

theorem serialEdge_sameTimer {p : Ports} {s t : State} (h : serialEdge p s = .next t) : SameTimer s t :=
  ⟨serialEdge_cfg h, serialEdge_ir h⟩

/-- A clk edge holds the block in reset, or runs the timer once, before or after a part that the timer
does not see (`60_exceptions.md` R168; `70_reset_and_hazards.md` R180). -/
theorem clkEdge_cases {p : Ports} {s t : State} (h : clkEdge p s = .next t) :
    (p.rstN = false ∧ t = resetState s) ∨
    (p.rstN = true ∧ ∃ u v, SameTimer s u ∧ timerEdge p u = .next v ∧ SameTimer v t) := by
  unfold clkEdge at h
  split at h
  case isTrue hr =>
    refine .inr ⟨hr, ?_⟩
    split at h
    · obtain ⟨v, hv, hserial⟩ := andThen_eq_next.1 h
      exact ⟨s, v, ⟨rfl, rfl⟩, hv, serialEdge_sameTimer hserial⟩
    · obtain ⟨u, hserial, ht⟩ := andThen_eq_next.1 h
      exact ⟨u, t, serialEdge_sameTimer hserial, ht, rfl, rfl⟩
  case isFalse hr =>
    cases h
    exact .inl ⟨by simpa using hr, rfl⟩

/-- In the timer's invariant every clk edge completes, in both orders. -/
theorem clkEdge_completes {s : State} (hs : TimerInv s) (p : Ports) : ∃ t, clkEdge p s = .next t := by
  unfold clkEdge
  split
  · split
    · obtain ⟨u, hu⟩ := timerEdge_completes hs p
      rw [hu]
      exact serialEdge_completes p u
    · obtain ⟨u, hu⟩ := serialEdge_completes p s
      rw [hu]
      exact timerEdge_completes ((timerInv_congr (serialEdge_cfg hu) (serialEdge_ir hu)).2 hs) p
  · exact ⟨_, rfl⟩

/-- What a clk edge without reset does to the timer: its invariant is kept, and the time within the slot
moves with the tick, whatever the bus does. -/
theorem clkEdge_slotTime {p : Ports} {s t : State} (ht : s.cfg.TimingValid) (hs : TimerInv s)
    (hr : p.rstN = true) (h : clkEdge p s = .next t) :
    t.cfg = s.cfg ∧ TimerInv t ∧
      ((p.tick = false ∧ t.ir = s.ir) ∨
        (p.tick = true ∧ (TicksWithin s.cfg s.ir t.ir ∨ EndsSlot s.cfg s.ir t.ir))) := by
  obtain ⟨hr', _⟩ | ⟨_, u, v, ⟨hcu, hiu⟩, hv, hct, hit⟩ := clkEdge_cases h
  · rw [hr] at hr'; cases hr'
  · have htu : u.cfg.TimingValid := hcu.symm ▸ ht
    have hu : TimerInv u := (timerInv_congr hcu hiu).2 hs
    refine ⟨hct.trans ((timerEdge_cfg hv).trans hcu),
      (timerInv_congr hct hit).2 (timerEdge_keeps_timerInv htu hu hv), ?_⟩
    rw [hit, ← hiu, ← hcu]
    exact timerEdge_slotTime htu hu hv

/-- Settles O52: within a slot the new time is below T_FRAME, and the slot's last tick leaves 0. -/
theorem tickAdvancesSlotTime : Obligations.TickAdvancesSlotTime := by
  intro p s ht hs hr
  obtain ⟨t, h⟩ := clkEdge_completes hs p
  obtain ⟨hcfg, hinv, htime⟩ := clkEdge_slotTime ht hs hr h
  have hlt : slotTime s.cfg t.ir < s.cfg.tFrame := hcfg ▸ slotTime_lt (hcfg.symm ▸ ht) hinv
  refine ⟨t, h, ?_⟩
  rw [hcfg]
  obtain ⟨hp, hir⟩ | ⟨hp, ⟨hstep, _⟩ | ⟨hlast, hzero, _⟩⟩ := htime
  · simp [hp, hir]
  · rw [if_pos hp, ← hstep, Nat.mod_eq_of_lt hlt]
  · rw [if_pos hp, hlast, Nat.mod_self, hzero]

/-- Settles O54: the only tick that enters SendingStartMark is the last of a slot. -/
theorem startMarksOnlyAtSlotStart : Obligations.StartMarksOnlyAtSlotStart := by
  intro p s t ht hs h hbefore hafter
  obtain ⟨_, rfl⟩ | ⟨hr, _⟩ := clkEdge_cases h
  · cases hafter
  · obtain ⟨hcfg, _, ⟨_, hir⟩ | ⟨_, ⟨_, hstay⟩ | ⟨hlast, hzero, hon⟩⟩⟩ := clkEdge_slotTime ht hs hr h
    · exact absurd (hir ▸ hafter) hbefore
    · exact absurd (hstay hafter) hbefore
    · exact ⟨hlast, hcfg.symm ▸ hzero, hon hafter⟩

/-! ## Runs of clk edges -/

theorem tickCount_cons (p : Ports) (ps : List Ports) :
    tickCount (p :: ps) = (if p.tick then 1 else 0) + tickCount ps := by
  unfold tickCount
  rw [List.filter_cons]
  split
  · rw [List.length_cons, Nat.add_comm]
  · rw [Nat.zero_add]

/-- Settles O53, by induction on the clk edges: each keeps the configuration and the timer's invariant. -/
theorem slotTakesFrameTime : Obligations.SlotTakesFrameTime := by
  intro ps
  induction ps with
  | nil =>
    intro s ht hs _
    exact ⟨s, rfl, hs, (Nat.mod_eq_of_lt (slotTime_lt ht hs)).symm⟩
  | cons p ps ih =>
    intro s ht hs hr
    have hrp : p.rstN = true := hr p List.mem_cons_self
    obtain ⟨u, hu, htime⟩ := tickAdvancesSlotTime p s ht hs hrp
    obtain ⟨hcfg, hinv, _⟩ := clkEdge_slotTime ht hs hrp hu
    obtain ⟨t, hrun, hinvt, hsum⟩ :=
      ih u (hcfg.symm ▸ ht) hinv fun q hq => hr q (List.mem_cons_of_mem p hq)
    refine ⟨t, ?_, hinvt, ?_⟩
    · calc runPorts (p :: ps) s = andThen (clkEdge p s) (runPorts ps) := rfl
        _ = runPorts ps u := by rw [hu, andThen_next]
        _ = .next t := hrun
    · rw [hsum, htime, hcfg, tickCount_cons]
      cases p.tick with
      | true => simp only [if_true, Nat.mod_add_mod, Nat.add_assoc]
      | false => simp

end Sys2Proof.Machine
end

section
/-! PROOFS. The arbiter (`41_ir_scheduler.md` R93). -/

namespace Sys2Proof.Machine

/-- `k` is the first channel of `cur + 1, ..., cur + n` whose bit is set in `m`. -/
def FirstAfter (m : ChanMask) (cur : Chan) (n : Nat) (k : Chan) : Prop :=
  ∃ j : Nat, 1 ≤ j ∧ j ≤ n ∧ k = cur + BitVec.ofNat 2 j ∧ bitOf m (cur + BitVec.ofNat 2 j) = true ∧
    ∀ j' : Nat, 1 ≤ j' → j' < j → bitOf m (cur + BitVec.ofNat 2 j') = false

theorem FirstAfter.bitOf_eq_true {m : ChanMask} {cur k : Chan} {n : Nat}
    (h : FirstAfter m cur n k) : bitOf m k = true := by
  obtain ⟨_, _, _, rfl, hbit, _⟩ := h
  exact hbit

theorem bitOf_and (m m' : ChanMask) (k : Chan) : bitOf (m &&& m') k = (bitOf m k && bitOf m' k) :=
  BitVec.getLsbD_and

theorem bitOf_zero (k : Chan) : bitOf 0 k = false := BitVec.getLsbD_zero

theorem ne_zero_of_bitOf {m : ChanMask} {k : Chan} (h : bitOf m k = true) : m ≠ 0 := by
  rintro rfl
  rw [bitOf_zero] at h
  cases h

theorem exists_bitOf_of_ne_zero {m : ChanMask} (h : m ≠ 0) : ∃ k, bitOf m k = true := by
  by_contra hnone
  refine h (BitVec.eq_of_getLsbD_eq fun i hi => ?_)
  have hbit : bitOf m (BitVec.ofNat 2 i) = false := Bool.eq_false_iff.2 fun hb => hnone ⟨_, hb⟩
  rw [bitOf, BitVec.toNat_ofNat, Nat.mod_eq_of_lt hi] at hbit
  exact hbit.trans BitVec.getLsbD_zero.symm

/-! ## The search -/

/-- The search finds a channel unless every channel it looks at has its bit clear. -/
theorem firstFrom_eq_none {m : ChanMask} {cur : Chan} {js : List Chan}
    (h : firstFrom m cur js = none) : ∀ j ∈ js, bitOf m (cur + j) = false := by
  induction js with
  | nil => nofun
  | cons j js ih =>
    rw [firstFrom] at h
    split at h
    · cases h
    · rename_i hj
      exact List.forall_mem_cons.2 ⟨Bool.eq_false_iff.2 hj, ih h⟩

/-- The search over consecutive offsets from `a` finds the lowest offset whose bit is set. -/
theorem firstFrom_range' {m : ChanMask} {cur k : Chan} {n a : Nat}
    (h : firstFrom m cur ((List.range' a n).map (BitVec.ofNat 2)) = some k) :
    ∃ j, a ≤ j ∧ j < a + n ∧ k = cur + BitVec.ofNat 2 j ∧ bitOf m (cur + BitVec.ofNat 2 j) = true ∧
      ∀ j', a ≤ j' → j' < j → bitOf m (cur + BitVec.ofNat 2 j') = false := by
  induction n generalizing a with
  | zero => cases h
  | succ n ih =>
    rw [List.range'_succ, List.map_cons, firstFrom] at h
    split at h
    · rename_i hbit
      cases h
      exact ⟨a, le_rfl, by omega, rfl, hbit, by omega⟩
    · rename_i hbit
      obtain ⟨j, hlow, hhigh, hk, hset, hbefore⟩ := ih h
      refine ⟨j, by omega, by omega, hk, hset, fun j' hj' hlt => ?_⟩
      obtain rfl | hne := eq_or_ne j' a
      · exact Bool.eq_false_iff.2 hbit
      · exact hbefore j' (by omega) hlt

/-- The search over the offsets from 1 to `n` succeeds if one of them has its bit set. -/
theorem firstFrom_firstAfter {m : ChanMask} {cur d : Chan} {n : Nat}
    (hd : d ∈ (List.range' 1 n).map (BitVec.ofNat 2)) (hbit : bitOf m (cur + d) = true) :
    ∃ k, firstFrom m cur ((List.range' 1 n).map (BitVec.ofNat 2)) = some k ∧
      FirstAfter m cur n k := by
  cases hf : firstFrom m cur ((List.range' 1 n).map (BitVec.ofNat 2)) with
  | none =>
    have hclear := firstFrom_eq_none hf d hd
    rw [hbit] at hclear
    cases hclear
  | some k =>
    obtain ⟨j, hlow, hhigh, hfirst⟩ := firstFrom_range' hf
    exact ⟨k, rfl, j, hlow, by omega, hfirst⟩

/-- The search of R93 over all four channels; the offset 4 is 0 modulo 4. -/
theorem firstFrom_allChannels {m : ChanMask} (cur : Chan) (h : m ≠ 0) :
    ∃ k, firstFrom m cur [1, 2, 3, 0] = some k ∧ FirstAfter m cur 4 k := by
  obtain ⟨k, hk⟩ := exists_bitOf_of_ne_zero h
  have hoffset : ∀ d : Chan, d ∈ (List.range' 1 4).map (BitVec.ofNat 2) := by decide
  exact firstFrom_firstAfter (hoffset (k - cur)) (by rwa [add_sub_cancel])

/-- The search of R93 over the channels other than `cur`. -/
theorem firstFrom_otherChannels {m : ChanMask} {cur : Chan} (h : m ≠ 0)
    (hcur : bitOf m cur = false) :
    ∃ k, firstFrom m cur [1, 2, 3] = some k ∧ FirstAfter m cur 3 k := by
  obtain ⟨k, hk⟩ := exists_bitOf_of_ne_zero h
  have hoffset : ∀ d : Chan, d ≠ 0 → d ∈ (List.range' 1 3).map (BitVec.ofNat 2) := by decide
  have hne : k - cur ≠ 0 := fun he => by
    rw [sub_eq_zero.1 he, hcur] at hk
    cases hk
  exact firstFrom_firstAfter (hoffset (k - cur) hne) (by rwa [add_sub_cancel])

theorem firstFrom_zero (cur : Chan) (js : List Chan) : firstFrom 0 cur js = none := by
  induction js with
  | nil => rfl
  | cons j js ih => rw [firstFrom, bitOf_zero, if_neg Bool.false_ne_true, ih]

/-! ## The cases of NextChannel -/

/-- Some enabled channel is freshly eligible. -/
theorem nextChannel_of_due (cur : Chan) {elig en : ChanMask} (h : elig &&& en ≠ 0) :
    FirstAfter (elig &&& en) cur 4 (nextChannel cur elig en) := by
  obtain ⟨k, hf, hfirst⟩ := firstFrom_allChannels cur h
  rw [nextChannel, hf]
  exact hfirst

/-- Nobody is due and the current channel is enabled. -/
theorem nextChannel_of_current {cur : Chan} {elig en : ChanMask} (h : elig &&& en = 0)
    (hcur : bitOf en cur = true) : nextChannel cur elig en = cur := by
  rw [nextChannel, h, firstFrom_zero]
  exact if_pos hcur

/-- Nobody is due and only other channels are enabled. -/
theorem nextChannel_of_other {cur : Chan} {elig en : ChanMask} (h : elig &&& en = 0)
    (hcur : bitOf en cur = false) (hen : en ≠ 0) : FirstAfter en cur 3 (nextChannel cur elig en) := by
  obtain ⟨k, hf, hfirst⟩ := firstFrom_otherChannels hen hcur
  rw [nextChannel, h, firstFrom_zero, hcur, hf]
  exact hfirst

theorem nextChannel_of_noneEnabled (cur : Chan) (elig : ChanMask) : nextChannel cur elig 0 = cur := by
  have hcand : elig &&& 0 = 0 := BitVec.and_zero
  rw [nextChannel, hcand, firstFrom_zero, firstFrom_zero, bitOf_zero]
  rfl

/-- Settles O36: one lemma per case of R93. -/
theorem nextChannelInCyclicOrder : Obligations.NextChannelInCyclicOrder := by
  refine fun cur elig en => ⟨nextChannel_of_due cur, nextChannel_of_current, nextChannel_of_other, ?_⟩
  rintro rfl
  exact nextChannel_of_noneEnabled cur elig

/-! ## What the choice guarantees -/

/-- The arbiter chooses an enabled channel if there is one (`41_ir_scheduler.md` R95 (a)). -/
theorem bitOf_nextChannel {cur : Chan} {elig en : ChanMask} (hen : en ≠ 0) :
    bitOf en (nextChannel cur elig en) = true := by
  by_cases hdue : elig &&& en = 0
  · cases hcur : bitOf en cur with
    | true => rw [nextChannel_of_current hdue hcur, hcur]
    | false => exact (nextChannel_of_other hdue hcur hen).bitOf_eq_true
  · have hbit := (nextChannel_of_due cur hdue).bitOf_eq_true
    rw [bitOf_and, Bool.and_eq_true] at hbit
    exact hbit.2

/-- The current channel is the last that a search over all four looks at. -/
theorem FirstAfter.ne_cur {m : ChanMask} {cur k k' : Chan} (h : FirstAfter m cur 4 k)
    (hne : k' ≠ cur) (hk' : bitOf m k' = true) : k ≠ cur := by
  obtain ⟨j, hlow, hhigh, rfl, _, hbefore⟩ := h
  intro hcur
  have hlast : j = 4 := by bv_omega
  have hclear := hbefore (k' - cur).toNat (by bv_omega) (by bv_omega)
  rw [BitVec.ofNat_toNat, BitVec.setWidth_eq, add_sub_cancel, hk'] at hclear
  cases hclear

/-- A due channel is served before the same channel again (`41_ir_scheduler.md` R95 (d)). -/
theorem nextChannel_ne_cur_of_due {cur k : Chan} {elig en : ChanMask} (hne : k ≠ cur)
    (hk : bitOf (elig &&& en) k = true) :
    nextChannel cur elig en ≠ cur ∧ bitOf (elig &&& en) (nextChannel cur elig en) = true := by
  have hfirst := nextChannel_of_due cur (ne_zero_of_bitOf hk)
  exact ⟨hfirst.ne_cur hne hk, hfirst.bitOf_eq_true⟩

/-- The only due channel is chosen, whichever channel is the current one. -/
theorem nextChannel_of_onlyDue (cur : Chan) {k : Chan} {elig en : ChanMask}
    (h : ∀ k', bitOf (elig &&& en) k' = true ↔ k' = k) : nextChannel cur elig en = k :=
  (h _).1 (nextChannel_of_due cur (ne_zero_of_bitOf ((h k).2 rfl))).bitOf_eq_true

end Sys2Proof.Machine
end

section
/-! PROOFS. The countdowns over many scheduler steps, and the operation SCHED (`41_ir_scheduler.md` R90 to
R96). -/

namespace Sys2Proof.Machine

/-! ## The operation SCHED -/

/-- Settles O31: the two branches of R92, and what a scheduler step does not reach. -/
theorem schedSelectsOnlyWhenStopped : Obligations.SchedSelectsOnlyWhenStopped := by
  intro s
  obtain ⟨_, hpwm, hir, _, _, hcfg, _⟩ := schedStep_frame s
  refine ⟨_, rfl, schedStep_scheduled, fun hst => ?_, hir, fun b hb => ?_, schedStep_onlyInfrared s⟩
  · rw [schedStep, if_neg hst]
    exact ⟨rfl, countdownUpdate_get s.cfg s.reg, rfl⟩
  · rw [RegisterKept, hcfg]
    exact memRead_of_pwm_eq s.cfg hpwm hb

/-! ## The countdowns after `n` updates -/

/-- The countdowns are those of `n` countdown updates after the periods (`41_ir_scheduler.md` R91). -/
def CountedFor (c : Params) (n : Nat) (r : Registry) : Prop :=
  ∀ k : Chan, (chanGet r.countdown k).toNat =
    (chanGet c.period k).toNat - n % (chanGet c.period k).toNat

theorem countedFor_zero {c : Params} {r : Registry} (h : r.countdown = c.period) :
    CountedFor c 0 r := by
  intro k
  rw [h, Nat.zero_mod, Nat.sub_zero]

/-- A remainder one below the modulus wraps to 0; a smaller one grows by 1. -/
theorem succ_mod_eq_ite {p : Nat} (n : Nat) (hp : 1 ≤ p) :
    (n + 1) % p = if n % p + 1 = p then 0 else n % p + 1 := by
  have hlt : n % p < p := Nat.mod_lt n hp
  rw [← Nat.mod_add_mod]
  split
  · rename_i h
    rw [h, Nat.mod_self]
  · exact Nat.mod_eq_of_lt (by omega)

/-- One update counts one more: at 1 the countdown is reloaded as the remainder wraps to 0. -/
theorem CountedFor.countdownUpdate {c : Params} {n : Nat} {r : Registry} (hc : c.PeriodValid)
    (h : CountedFor c n r) : CountedFor c (n + 1) (countdownUpdate c r) := by
  intro k
  have hp := one_le_period hc k
  have hlt : n % (chanGet c.period k).toNat < (chanGet c.period k).toNat := Nat.mod_lt _ hp
  have hk := h k
  rw [countdownUpdate_get, succ_mod_eq_ite n hp]
  by_cases h1 : chanGet r.countdown k = 1
  · have hwrap : n % (chanGet c.period k).toNat + 1 = (chanGet c.period k).toNat := by
      have hone : (chanGet r.countdown k).toNat = 1 := by rw [h1]; rfl
      omega
    rw [if_pos h1, if_pos hwrap, Nat.sub_zero]
  · have hnot : n % (chanGet c.period k).toNat + 1 ≠ (chanGet c.period k).toNat := by bv_omega
    rw [if_neg h1, if_neg hnot]
    bv_omega

theorem CountedFor.countdownSteps {c : Params} {m : Nat} {r : Registry} (hc : c.PeriodValid)
    (h : CountedFor c m r) (n : Nat) : CountedFor c (m + n) (countdownSteps c n r) := by
  induction n generalizing m r with
  | zero => exact h
  | succ n ih =>
    rw [← Nat.add_assoc, Nat.add_right_comm]
    exact ih (h.countdownUpdate hc)

/-- Settles O37, by induction on the number of updates. -/
theorem countdownIsPeriodic : Obligations.CountdownIsPeriodic := by
  intro c r n k hc hr
  have h := (countedFor_zero hr).countdownSteps hc n k
  rwa [Nat.zero_add] at h

/-! ## Many operations SCHED -/

theorem schedStep_countedFor {s : State} {n : Nat} (hc : s.cfg.PeriodValid)
    (h : CountedFor s.cfg n s.reg) : CountedFor s.cfg (n + 1) (schedStep s).reg := by
  have hnext := h.countdownUpdate hc
  obtain ⟨_, ht⟩ | ⟨_, k, _, ⟨_, ht⟩ | ⟨_, ht⟩⟩ := schedStep_cases s <;> rw [ht] <;> exact hnext

/-- The frame engine put in Stopped, as `schedRun` does before each operation. -/
def inStopped (s : State) : State := { s with ir := { s.ir with tstate := .stopped } }

/-- The last of `n + 1` operations SCHED is a scheduler step in Stopped, on countdowns that `n` updates
have moved; `en`, `pwm` and the configuration are as at the start. -/
theorem schedRun_last {s : State} {m : Nat} (n : Nat) (hc : s.cfg.PeriodValid)
    (h : CountedFor s.cfg m s.reg) :
    ∃ u : State, schedRun (n + 1) s = .next (schedStep u) ∧ u.ir.tstate = .stopped ∧ u.cfg = s.cfg ∧
      u.reg.en = s.reg.en ∧ u.reg.pwm = s.reg.pwm ∧ CountedFor s.cfg (m + n) u.reg := by
  induction n generalizing s m with
  | zero => exact ⟨inStopped s, rfl, rfl, rfl, rfl, rfl, h⟩
  | succ n ih =>
    obtain ⟨hen, hpwm, _, _, _, hcfg, _⟩ := schedStep_frame (inStopped s)
    have hnext : CountedFor (schedStep (inStopped s)).cfg (m + 1) (schedStep (inStopped s)).reg :=
      hcfg ▸ schedStep_countedFor (s := inStopped s) hc h
    obtain ⟨u, hrun, hst, hucfg, huen, hupwm, hu⟩ := ih (hcfg ▸ hc) hnext
    refine ⟨u, (schedRun_succ _ s).trans hrun, hst, hucfg.trans hcfg, huen.trans hen,
      hupwm.trans hpwm, ?_⟩
    rwa [hcfg, Nat.add_right_comm, Nat.add_assoc] at hu

/-! ## The arbiter's guarantees -/

theorem bitOf_due_iff (r : Registry) (k : Chan) :
    bitOf (eligible r &&& r.en) k = true ↔ chanGet r.countdown k = 1 ∧ bitOf r.en k = true := by
  rw [bitOf_and, Bool.and_eq_true, bitOf_eligible, fresh_iff]

/-- A scheduler step in Stopped that chooses an enabled channel queues its frame. -/
theorem schedStep_queues {s : State} (hst : s.ir.tstate = .stopped)
    (hen : bitOf s.reg.en (schedStep s).reg.cur = true) :
    (schedStep s).reg.waiting = false ∧ (schedStep s).ir.tstate = .starting ∧
      (schedStep s).ir.shreg = frameWord s.cfg (schedStep s).reg.cur
        (chanGet s.reg.pwm (schedStep s).reg.cur) := by
  obtain ⟨_, _, _, _, hserve⟩ := schedStep_scheduled hst
  obtain ⟨_, _, _, _, _, hcfg, _⟩ := schedStep_frame s
  rwa [if_pos hen, hcfg] at hserve

/-- The default periods (`00_scope.md` R6). -/
def defaultPeriods : Vector Byte 4 := #v[8, 10, 12, 14]

theorem defaultPeriods_inRange (k : Chan) :
    1 ≤ (chanGet defaultPeriods k).toNat ∧ (chanGet defaultPeriods k).toNat ≤ 14 := by
  revert k; decide

/-- With the default periods, in step `period[k]` channel `k` and no other reaches 0: up to step 14 no other
period divides `period[k]`. -/
theorem defaultPeriods_onlyDue (k k' : Chan) :
    (chanGet defaultPeriods k').toNat -
        ((chanGet defaultPeriods k).toNat - 1) % (chanGet defaultPeriods k').toNat = 1 ↔ k' = k := by
  revert k k'; decide

/-- From countdowns at the default periods and all four channels enabled, channel `k` is the only one due
in step `period[k]`, so its frame is queued whatever `cur` is. -/
theorem schedRun_serves {s : State} (hp : s.cfg.period = defaultPeriods)
    (hcd : s.reg.countdown = defaultPeriods) (hen : s.reg.en = 0b1111) (k : Chan) :
    ∃ (n : Nat) (t : State), 1 ≤ n ∧ n ≤ 14 ∧ schedRun n s = .next t ∧
      t.reg.cur = k ∧ t.ir.tstate = .starting ∧
      t.ir.shreg = frameWord s.cfg k (chanGet s.reg.pwm k) := by
  have hc : s.cfg.PeriodValid := by
    unfold Params.PeriodValid
    rw [hp]; decide
  obtain ⟨hlow, hhigh⟩ := defaultPeriods_inRange k
  obtain ⟨u, hrun, hst, hcfg, huen, hpwm, hu⟩ :=
    schedRun_last ((chanGet defaultPeriods k).toNat - 1) hc (countedFor_zero (hcd.trans hp.symm))
  rw [Nat.sub_add_cancel hlow] at hrun
  rw [Nat.zero_add] at hu
  have hall : ∀ j, bitOf u.reg.en j = true := by rw [huen, hen]; decide
  have honly : ∀ k', bitOf (eligible u.reg &&& u.reg.en) k' = true ↔ k' = k := by
    intro k'
    have hk' := hu k'
    rw [hp] at hk'
    rw [bitOf_due_iff, and_iff_left (hall k'), ← defaultPeriods_onlyDue k k', ← hk',
      BitVec.toNat_eq]
    rfl
  obtain ⟨_, _, _, hcur, _⟩ := schedStep_scheduled hst
  rw [nextChannel_of_onlyDue _ honly] at hcur
  obtain ⟨_, hstarting, hword⟩ := schedStep_queues hst (hall _)
  rw [hcur, hcfg, hpwm] at hword
  exact ⟨_, _, hlow, hhigh, hrun, hcur, hstarting, hword⟩

/-- Settles O35: the arbiter's guarantees for one step, then the schedule of the default periods. -/
theorem arbiterServesDueChannels : Obligations.ArbiterServesDueChannels := by
  refine fun s => ⟨fun hst => ⟨schedStep s, rfl, fun hen => ?_, fun hen => ?_, fun k hne hk hcd => ?_⟩,
    schedRun_serves⟩
  all_goals obtain ⟨_, _, _, hcur, hserve⟩ := schedStep_scheduled hst
  · have hbit : bitOf s.reg.en (schedStep s).reg.cur = true := hcur ▸ bitOf_nextChannel hen
    obtain ⟨hwaiting, hstarting, _⟩ := schedStep_queues hst hbit
    exact ⟨hstarting, hbit, hwaiting⟩
  · rw [hen, bitOf_zero, if_neg Bool.false_ne_true] at hserve
    obtain ⟨hwaiting, hstopped, _⟩ := hserve
    rw [hen, nextChannel_of_noneEnabled] at hcur
    exact ⟨hstopped, hcur, hwaiting⟩
  · have hdue := nextChannel_ne_cur_of_due hne ((bitOf_due_iff s.reg k).2 ⟨hcd, hk⟩)
    rw [← hcur, bitOf_due_iff, and_comm (b := _ = true)] at hdue
    exact hdue

end Sys2Proof.Machine
end

section
/-! PROOFS. The rows of the serial protocol (`42_serial_protocol.md` R105 to R117): what each operation
answers, and what a received byte runs. -/

namespace Sys2Proof.Machine

/-! ## Refusal -/

/-- What a refused row leaves (`60_exceptions.md` R161). -/
theorem violation_refuses (c : Cause) (s : State) :
    Recovered s (violation c s) ∧ Answers .nack s (violation c s) ∧ OnlySerial s (violation c s) :=
  ⟨⟨rfl, rfl, rfl, rfl, rfl⟩, rfl, violation_onlySerial c s⟩

/-- Settles O9: the four rows are the violation, of four causes. -/
theorem refusedRowsRecover : Obligations.RefusedRowsRecover := by
  intro addr dir b i hi s
  simp only [List.mem_cons, List.not_mem_nil, or_false] at hi
  obtain rfl | rfl | rfl | rfl := hi
  · exact ⟨violation .addrMismatch s, rfl, violation_refuses _ s⟩
  · exact ⟨violation .badRegister s, rfl, violation_refuses _ s⟩
  · exact ⟨violation .writeReadOnly s, rfl, violation_refuses _ s⟩
  · exact ⟨violation .readWriteOnly s, rfl, violation_refuses _ s⟩

/-! ## The address byte -/

/-- The write direction is accepted: data for the selected register is awaited, or a register select
(`42_serial_protocol.md` R111, with the `armed <- 0` of R107). -/
def acceptWrite (s : State) : State :=
  { s with
    ser := { s.ser with
      pstate := if s.ser.sel = s.cfg.sentinel then .awaitingRegisterSelect else .awaitingWriteData
      armed := false }
    bus := { s.bus with ackres := .ack } }

theorem execAddrW_eq (s : State) : execAddrW s = .next (acceptWrite s) := by
  unfold execAddrW acceptWrite
  by_cases h : s.ser.sel = s.cfg.sentinel
  · rw [if_neg (not_not.2 h), if_pos h]; rfl
  · rw [if_pos h, if_neg h]; rfl

/-- The read direction is accepted: the selected register is loaded and streamed from its first byte
(`42_serial_protocol.md` R110). -/
def acceptRead (s : State) : State := (enterStreaming (loadBuffer s.ser.sel (disarm s))).answer .ack

theorem execAddrR_of_readable {s : State} (hsel : s.ser.sel ≠ s.cfg.sentinel)
    (hread : readable s.ser.sel = true) : execAddrR s = .next (acceptRead s) := by
  rw [execAddrR, if_neg hsel, if_neg (by simp [hread]), acceptRead]

/-- The read direction is refused with nothing selected, or a write-only register; the violation clears
`armed` in any case (`42_serial_protocol.md` R110, R139; `60_exceptions.md` R161). -/
theorem execAddrR_of_refused {s : State}
    (h : s.ser.sel = s.cfg.sentinel ∨ readable s.ser.sel = false) :
    ∃ c, execAddrR s = .next (violation c s) := by
  by_cases hsel : s.ser.sel = s.cfg.sentinel
  · exact ⟨.readNoSelect, if_pos hsel⟩
  · exact ⟨.readWriteOnly, (if_neg hsel).trans (if_pos (h.resolve_left hsel))⟩

/-- All that the address byte can do (`42_serial_protocol.md` R109 to R111). -/
theorem exec_decodeAddr_cases (b : Byte) (s : State) :
    (∃ c, exec (decodeAddr s.cfg b) s = .next (violation c s)) ∨
    exec (decodeAddr s.cfg b) s = .next (acceptWrite s) ∨
    (s.ser.sel ≠ s.cfg.sentinel ∧ readable s.ser.sel = true ∧
      exec (decodeAddr s.cfg b) s = .next (acceptRead s)) := by
  unfold decodeAddr
  split_ifs
  · by_cases h : s.ser.sel = s.cfg.sentinel ∨ readable s.ser.sel = false
    · exact .inl (execAddrR_of_refused h)
    · obtain ⟨hsel, hread⟩ := not_or.1 h
      have hread : readable s.ser.sel = true := by simpa using hread
      exact .inr (.inr ⟨hsel, hread, execAddrR_of_readable hsel hread⟩)
  · exact .inr (.inl (execAddrW_eq s))
  · exact .inl ⟨.addrMismatch, rfl⟩

/-- Settles O10: `acceptWrite` is the state the statement describes. -/
theorem addrWChoosesPhase : Obligations.AddrWChoosesPhase :=
  fun s => ⟨acceptWrite s, execAddrW_eq s, rfl, rfl, onlySerial_of_writes s _ _⟩

/-- Settles O11: the buffer's bytes are those of `storePrefix`. -/
theorem addrRLoadsBuffer : Obligations.AddrRLoadsBuffer :=
  fun s hsel hread => ⟨acceptRead s, execAddrR_of_readable hsel hread, memRead_length s.cfg s.reg hread,
    storePrefix_getElem (memRead s.cfg s.reg s.ser.sel) s.ser.buf, rfl, rfl, rfl, rfl, rfl,
    onlySerial_of_writes s _ _⟩

/-- Settles O12: both causes are the violation. -/
theorem addrRIsRefused : Obligations.AddrRIsRefused := by
  intro s h
  obtain ⟨c, hc⟩ := execAddrR_of_refused h
  exact ⟨violation c s, hc, violation_refuses c s⟩

/-! ## The read multiplexer -/

/-- The row of a readable register loads it (`43_serial_registers.md` R131 to R138). -/
theorem exec_decodeRead_of_readable {a : Byte} (h : readable a = true) :
    ∃ i, decodeRead a = .instr i ∧ ∀ s, exec i s = .next (loadBuffer a s) := by
  rcases readable_cases h with rfl | rfl | rfl | rfl | rfl | rfl | rfl | rfl <;>
    exact ⟨_, rfl, fun _ => rfl⟩

/-- The row of a write-only register is RD.WO (`43_serial_registers.md` R139). -/
theorem decodeRead_of_writeOnly {a : Byte} (hmem : a ∈ whitelist) (h : readable a = false) :
    decodeRead a = .instr .rdWo := by
  revert a
  simp only [whitelist, List.forall_mem_cons]
  decide

/-- Settles O13: the row loads the buffer, or is the violation, as ADDR.R does. -/
theorem addrRRunsReadRow : Obligations.AddrRRunsReadRow := by
  intro s hvalid hmem
  have hsel : s.ser.sel ≠ s.cfg.sentinel := fun h => hvalid (h ▸ hmem)
  cases hread : readable s.ser.sel with
  | true =>
    obtain ⟨i, hi, hload⟩ := exec_decodeRead_of_readable hread
    exact ⟨i, loadBuffer s.ser.sel (disarm s), hi, hload (disarm s),
      fun _ => execAddrR_of_readable hsel hread, nofun⟩
  | false =>
    obtain ⟨c, hc⟩ := execAddrR_of_refused (.inr hread)
    exact ⟨.rdWo, violation .readWriteOnly (disarm s), decodeRead_of_writeOnly hmem hread, rfl, nofun,
      fun _ => ⟨rfl, hc⟩⟩

/-! ## The select byte and the data byte -/

/-- A select byte in the register map is stored (`42_serial_protocol.md` R112). -/
theorem exec_decodeSel_of_mem {a : Byte} (h : a ∈ whitelist) (s : State) :
    exec (decodeSel a) s = .next (selectRegister a s) := by
  rcases whitelist_cases h with rfl | rfl | rfl | rfl | rfl | rfl | rfl | rfl | rfl | rfl <;> rfl

/-- Any other select byte is refused (`42_serial_protocol.md` R112). -/
theorem exec_decodeSel_of_not_mem {b : Byte} (h : b ∉ whitelist) (s : State) :
    exec (decodeSel b) s = .next (violation .badRegister s) := by
  rw [decodeSel_of_not_mem h]; rfl

/-- A data byte for a writable register is written (`42_serial_protocol.md` R113). -/
theorem exec_decodeWData_of_writable {a : Byte} (h : writable a = true) (d : Byte) (s : State) :
    exec (decodeWData a d) s = .next (writeRegister a d s) := by
  rcases writable_cases h with rfl | rfl | rfl | rfl | rfl | rfl | rfl <;> rfl

/-- Any other data byte is refused (`42_serial_protocol.md` R113). -/
theorem exec_decodeWData_of_not_writable {a : Byte} (h : writable a = false) (d : Byte) (s : State) :
    exec (decodeWData a d) s = .next (violation .writeReadOnly s) := by
  rw [decodeWData_of_not_writable h]; rfl

/-- Settles O14: the ten rows are those that the addresses of the register map decode to. -/
theorem selectStoresAddress : Obligations.SelectStoresAddress := by
  intro q hq s
  have hrows : q ∈ whitelist.map fun a => (decodeSel a, a) := hq
  obtain ⟨a, ha, rfl⟩ := List.mem_map.1 hrows
  exact ⟨selectRegister a s, exec_decodeSel_of_mem ha s, rfl, rfl, selectRegister_onlySerial a s⟩

/-! ## The host's acknowledgment bit -/

theorem execHack_of_streaming {s : State} (h : s.ser.pstate = .streamingReadData) :
    execHack s = .next { s with ser := { s.ser with cursor := cursorNext s.ser.sel s.ser.cursor } } :=
  if_pos h

theorem execHnack_of_streaming {s : State} (h : s.ser.pstate = .streamingReadData) :
    execHnack s = .next (abort s) := if_pos h

/-- Outside a read the host's bit is ignored (`42_serial_protocol.md` R117). -/
theorem exec_decodeAck_of_not_streaming {s : State} (h : s.ser.pstate ≠ .streamingReadData)
    (a : HostAck) : exec (decodeAck a) s = .next s := by
  cases a <;> exact if_neg h

/-- Settles O21: the two branches of HACK. -/
theorem hackAdvancesCursor : Obligations.HackAdvancesCursor := fun s =>
  ⟨fun h => ⟨_, execHack_of_streaming h, cursorNext_toNat s.ser.sel s.ser.cursor, rfl, rfl,
    onlySerial_of_writes s _ _⟩, fun h => exec_decodeAck_of_not_streaming h .ack⟩

/-- Settles O22: the two branches of HNACK. -/
theorem hnackAborts : Obligations.HnackAborts := fun s =>
  ⟨fun h => ⟨abort s, execHnack_of_streaming h, ⟨rfl, rfl, rfl, rfl, rfl⟩, rfl,
    onlySerial_of_writes s _ _⟩, fun h => exec_decodeAck_of_not_streaming h .nack⟩

/-! ## The bus conditions -/

/-- A bus condition brings the engine to address-await, armed or not (`42_serial_protocol.md` R105,
R106). -/
def awaitAddress (armed : Bool) (s : State) : State :=
  { s with ser := { s.ser with pstate := .awaitingAddress, armed := armed } }

theorem deliver_start (s : State) : deliver .start s = .next (awaitAddress true s) := rfl

theorem deliver_stop (s : State) : deliver .stop s = .next (awaitAddress false s) := rfl

/-- Settles O23: the two operations differ in `armed` alone. -/
theorem startArmsStopDisarms : Obligations.StartArmsStopDisarms := by
  intro q hq s
  obtain rfl | rfl := List.mem_pair.1 hq
  · exact ⟨awaitAddress true s, rfl, rfl, rfl, onlySerial_of_writes s _ _⟩
  · exact ⟨awaitAddress false s, rfl, rfl, rfl, onlySerial_of_writes s _ _⟩

/-! ## What a received byte runs (`42_serial_protocol.md` R107) -/

theorem deliver_rxByte_of_armed {s : State} (hp : s.ser.pstate = .awaitingAddress)
    (ha : s.ser.armed = true) (b : Byte) : deliver (.rxByte b) s = exec (decodeAddr s.cfg b) s := by
  refine deliver_of_decode_instr ?_
  simp [decode, decodeEvent, decodeByte, State.context, hp, ha]

theorem deliver_rxByte_of_select {s : State} (hp : s.ser.pstate = .awaitingRegisterSelect) (b : Byte) :
    deliver (.rxByte b) s = exec (decodeSel b) s :=
  deliver_of_decode_instr (decode_rxByte_of_select s.cfg hp b)

theorem deliver_rxByte_of_writeData {s : State} (hp : s.ser.pstate = .awaitingWriteData) (d : Byte) :
    deliver (.rxByte d) s = exec (decodeWData s.ser.sel d) s :=
  deliver_of_decode_instr (decode_rxByte_of_writeData s.cfg hp d)

end Sys2Proof.Machine
end

section
/-! PROOFS. The serial engine's invariants (`42_serial_protocol.md` R119): each phase of the protocol, each
event, each step. -/

namespace Sys2Proof.Machine

/-! ## The invariants in each phase -/

/-- Nothing but the serial engine and the sentinel matters to the invariants. -/
theorem protocolInv_congr {s t : State} (hcfg : t.cfg = s.cfg) (hser : t.ser = s.ser) :
    ProtocolInv t ↔ ProtocolInv s := by
  simp only [ProtocolInv, hcfg, hser]

/-- While an address byte is awaited only the selection matters. -/
theorem protocolInv_of_awaitingAddress {s : State} (hp : s.ser.pstate = .awaitingAddress)
    (hsel : s.ser.sel = s.cfg.sentinel ∨ s.ser.sel ∈ whitelist) : ProtocolInv s := by
  simp [ProtocolInv, hp, hsel]

theorem protocolInv_of_select {s : State} (hp : s.ser.pstate = .awaitingRegisterSelect)
    (ha : s.ser.armed = false) (hsel : s.ser.sel = s.cfg.sentinel) : ProtocolInv s := by
  simp [ProtocolInv, hp, ha, hsel]

theorem protocolInv_of_writeData {s : State} (hp : s.ser.pstate = .awaitingWriteData)
    (ha : s.ser.armed = false) (hsel : s.ser.sel ∈ whitelist) : ProtocolInv s := by
  simp [ProtocolInv, hp, ha, hsel]

theorem protocolInv_of_streaming {s : State} (hp : s.ser.pstate = .streamingReadData)
    (ha : s.ser.armed = false) (hread : readable s.ser.sel = true)
    (hcursor : s.ser.cursor.toNat < width s.ser.sel) : ProtocolInv s := by
  simp [ProtocolInv, hp, ha, hread, hcursor, readable_mem_whitelist hread]

/-- Outside address-await the engine is not armed (R119 (d)). -/
theorem ProtocolInv.armed_eq_false {s : State} (h : ProtocolInv s)
    (hp : s.ser.pstate ≠ .awaitingAddress) : s.ser.armed = false := by
  obtain ⟨_, _, _, harmed, _⟩ := h
  exact Bool.eq_false_iff.2 fun ha => hp (harmed ha)

/-- The known state has the invariants (`42_serial_protocol.md` R118). -/
theorem protocolInv_of_recover {s t : State} (hcfg : t.cfg = s.cfg) (hser : t.ser = s.recover.ser) :
    ProtocolInv t :=
  (protocolInv_congr (s := s.recover) hcfg hser).2 (protocolInv_of_awaitingAddress rfl (.inl rfl))

/-! ## The rows of the protocol -/

theorem protocolInv_violation (c : Cause) (s : State) : ProtocolInv (violation c s) :=
  protocolInv_of_recover (violation_cfg c s) (violation_ser c s)

theorem protocolInv_awaitAddress {s : State} (armed : Bool) (h : ProtocolInv s) :
    ProtocolInv (awaitAddress armed s) := by
  obtain ⟨_, _, _, _, hsel⟩ := h
  exact protocolInv_of_awaitingAddress rfl hsel

/-- ADDR.W goes to the phase that the selection asks for (`42_serial_protocol.md` R111). -/
theorem protocolInv_acceptWrite {s : State} (h : ProtocolInv s) : ProtocolInv (acceptWrite s) := by
  obtain ⟨_, _, _, _, hmap⟩ := h
  by_cases hsel : s.ser.sel = s.cfg.sentinel
  · exact protocolInv_of_select (if_pos hsel) rfl hsel
  · exact protocolInv_of_writeData (if_neg hsel) rfl (hmap.resolve_left hsel)

/-- ADDR.R streams from byte 0, and every register has one (`42_serial_protocol.md` R110). -/
theorem protocolInv_acceptRead {s : State} (hread : readable s.ser.sel = true) :
    ProtocolInv (acceptRead s) :=
  protocolInv_of_streaming rfl rfl hread (width_pos s.ser.sel)

/-! ## The serial events -/

/-- A received byte (`42_serial_protocol.md` R107 to R113). -/
theorem deliver_rxByte_keeps_protocolInv {b : Byte} {s t : State} (hs : ProtocolInv s)
    (h : deliver (.rxByte b) s = .next t) : ProtocolInv t := by
  have ignored : deliver (.rxByte b) s = .next (s.answer .none) → ProtocolInv t := by
    intro hd
    cases hd.symm.trans h
    exact (protocolInv_congr rfl rfl).2 hs
  cases hp : s.ser.pstate with
  | awaitingAddress =>
    cases ha : s.ser.armed with
    | false => exact ignored (deliver_rxByte_ignored b (.inl ⟨hp, ha⟩))
    | true =>
      rw [deliver_rxByte_of_armed hp ha] at h
      obtain ⟨c, hd⟩ | hd | ⟨_, hread, hd⟩ := exec_decodeAddr_cases b s <;> cases hd.symm.trans h
      · exact protocolInv_violation c s
      · exact protocolInv_acceptWrite hs
      · exact protocolInv_acceptRead hread
  | awaitingRegisterSelect =>
    rw [deliver_rxByte_of_select hp] at h
    by_cases hmem : b ∈ whitelist
    · cases (exec_decodeSel_of_mem hmem s).symm.trans h
      exact protocolInv_of_writeData rfl (hs.armed_eq_false (by simp [hp])) hmem
    · cases (exec_decodeSel_of_not_mem hmem s).symm.trans h
      exact protocolInv_violation _ s
  | awaitingWriteData =>
    rw [deliver_rxByte_of_writeData hp] at h
    cases hw : writable s.ser.sel with
    | true =>
      cases (exec_decodeWData_of_writable hw b s).symm.trans h
      exact protocolInv_of_recover (writeRegister_cfg _ b s) (writeRegister_ser _ b s)
    | false =>
      cases (exec_decodeWData_of_not_writable hw b s).symm.trans h
      exact protocolInv_violation _ s
  | streamingReadData => exact ignored (deliver_rxByte_ignored b (.inr hp))

/-- The host's acknowledgment bit: the cursor stays within the register (`42_serial_protocol.md` R115 to
R117). -/
theorem deliver_hack_keeps_protocolInv {a : HostAck} {s t : State} (hs : ProtocolInv s)
    (h : deliver (.hack a) s = .next t) : ProtocolInv t := by
  have hd : exec (decodeAck a) s = .next t := h
  by_cases hp : s.ser.pstate = .streamingReadData
  case neg =>
    cases (exec_decodeAck_of_not_streaming hp a).symm.trans hd
    exact hs
  cases a with
  | ack =>
    cases (execHack_of_streaming hp).symm.trans hd
    have hcursor : (cursorNext s.ser.sel s.ser.cursor).toNat < width s.ser.sel := by
      rw [cursorNext_toNat]
      exact Nat.mod_lt _ (width_pos s.ser.sel)
    have ha : s.ser.armed = false := hs.armed_eq_false (by simp [hp])
    obtain ⟨_, _, hstream, _⟩ := hs
    exact protocolInv_of_streaming hp ha (hstream hp).1 hcursor
  | nack =>
    cases (execHnack_of_streaming hp).symm.trans hd
    exact protocolInv_of_recover (abort_cfg s) (abort_ser s)

/-- Any delivered event: a timer event does not reach the serial engine (`10_state.md` R29). -/
theorem deliver_keeps_protocolInv {e : Event} {s t : State} (hs : ProtocolInv s)
    (h : deliver e s = .next t) : ProtocolInv t := by
  cases e with
  | start => cases h; exact protocolInv_awaitAddress true hs
  | stop => cases h; exact protocolInv_awaitAddress false hs
  | rxByte b => exact deliver_rxByte_keeps_protocolInv hs h
  | hack a => exact deliver_hack_keeps_protocolInv hs h
  | cmpA | cmpB =>
    obtain ⟨⟨hser, _, hcfg, _⟩, _⟩ := deliver_timer_cases (by simp [SerialEvent]) h
    exact (protocolInv_congr hcfg hser).2 hs

/-- Settles O38: besides the delivered events only reset writes the serial engine. -/
theorem stepKeepsProtocolInv : Obligations.StepKeepsProtocolInv := by
  intro s t hs h
  have hev : ∀ e u v, ProtocolInv u → deliver e u = .next v → ProtocolInv v :=
    fun _ _ _ hu hv => deliver_keeps_protocolInv hu hv
  exact step_keeps (P := ProtocolInv) (fun _ _ _ hu => hu)
    (fun u _ => (protocolInv_congr rfl rfl).2 (resetWith_protocolInv u.cfg))
    (fun _ _ _ hu hv => timerEdge_keeps (fun _ _ hw => hw) hev hu hv) (fun _ _ hu => hu) hev hs h

end Sys2Proof.Machine
end

section
/-! PROOFS. The bit layer (`42_serial_protocol.md` R100 to R104): the bus conditions, a byte frame received
and a byte frame sent, one data clock at a time. -/

namespace Sys2Proof.Machine

/-! ## The bus conditions -/

/-- Settles O7: with the clock high on both sides the change of the data line is the bus condition. -/
theorem busConditionsRunHandlers : Obligations.BusConditionsRunHandlers := by
  intro p s hq hscl
  refine ⟨fun hd hin => ?_, fun hd hin => ?_⟩
  · have hline : lineChange s.bus p = .startCondition := by simp [lineChange, hq, hscl, hd, hin]
    rw [serialEdge, hline, sampleLines, hscl, hin]; rfl
  · have hline : lineChange s.bus p = .stopCondition := by simp [lineChange, hq, hscl, hd, hin]
    rw [serialEdge, hline, sampleLines, hscl, hin]; rfl

/-! ## The clock edges of a byte frame (`42_serial_protocol.md` R102, R103) -/

theorem fallingClock_of_data {s : State} (h : s.bus.bitcnt.toNat ≤ 7) :
    fallingClock s = { s with bus := { s.bus with sdaOe := s.bus.dirtx && !slotBit s.bus } } :=
  if_pos h

theorem fallingClock_of_ackSlot {s : State} (h : s.bus.bitcnt = 8) :
    fallingClock s =
      { s with bus := { s.bus with sdaOe := !s.bus.dirtx && decide (s.bus.ackres = .ack) } } := by
  rw [fallingClock, h]; rfl

theorem fallingClock_of_frameEnd {s : State} (h : s.bus.bitcnt = 9) :
    fallingClock s = beginByteFrame s := by
  rw [fallingClock, h]; rfl

/-- Outside a read the line is released for the next byte frame. -/
theorem beginByteFrame_of_not_streaming {s : State} (h : s.ser.pstate ≠ .streamingReadData) :
    beginByteFrame s =
      { s with bus := { s.bus with bitcnt := 0, ackres := .none, dirtx := false, sdaOe := false } } :=
  if_neg h

/-- In a read the next byte frame carries `buf[cursor]` (`42_serial_protocol.md` R114). -/
theorem beginByteFrame_of_streaming {s : State} (h : s.ser.pstate = .streamingReadData) :
    beginByteFrame s =
      { s with bus := { s.bus with
        bitcnt := 0, ackres := .none, dirtx := true, sreg := readData s
        sdaOe := !(readData s).getLsbD 7 } } :=
  if_pos h

/-- A data clock that does not complete a received byte. -/
theorem risingClock_of_data {s : State} (sda : Bool) (h : s.bus.bitcnt.toNat ≤ 7)
    (hmore : s.bus.dirtx = false → s.bus.bitcnt.toNat ≠ 7) :
    risingClock sda s = .next (clockBit sda s) := by
  rw [risingClock, if_pos h, if_neg fun hlast => hmore hlast.2 hlast.1]

/-- The data clock that completes a received byte. -/
theorem risingClock_of_lastBit {s : State} (sda : Bool) (h : s.bus.bitcnt.toNat = 7)
    (hrx : s.bus.dirtx = false) :
    risingClock sda s = deliver (.rxByte (clockBit sda s).bus.sreg) (clockBit sda s) := by
  rw [risingClock, if_pos h.le, if_pos ⟨h, hrx⟩]

/-- The ninth clock of a received byte. -/
theorem risingClock_of_answered {s : State} (sda : Bool) (h : s.bus.bitcnt = 8)
    (hrx : s.bus.dirtx = false) : risingClock sda s = .next (endNinthClock s) := by
  rw [risingClock, h, hrx]; rfl

/-- The ninth clock of a sent byte. -/
theorem risingClock_of_hostAck {s : State} (sda : Bool) (h : s.bus.bitcnt = 8)
    (htx : s.bus.dirtx = true) :
    risingClock sda s = andThen (deliver (.hack (hostAckOf sda)) s) fun t => .next (endNinthClock t) := by
  rw [risingClock, h, htx]; rfl

theorem runPorts_cons (p : Ports) (ps : List Ports) (s : State) :
    runPorts (p :: ps) s = andThen (clkEdge p s) (runPorts ps) := rfl

theorem runPorts_pair (p q : Ports) (s : State) :
    runPorts [p, q] s = andThen (clkEdge p s) (clkEdge q) := by
  have hlast : runPorts [q] = clkEdge q := by
    funext u
    rw [runPorts_cons]
    cases clkEdge q u <;> rfl
  rw [runPorts_cons, hlast]

theorem runPorts_append (ps qs : List Ports) (s : State) :
    runPorts (ps ++ qs) s = andThen (runPorts ps s) (runPorts qs) := by
  rw [runPorts, List.map_append, runInputs_append]; rfl

/-! ## A byte received -/

/-- The state after one data bit `v` is clocked in: the line released if the clock fell for it. -/
def bitReceived (s : State) (v : Bool) : State :=
  { s with
    bus := { s.bus with
      sreg := shiftIn s.bus.sreg v
      bitcnt := s.bus.bitcnt + 1
      sdaOe := s.bus.sdaOe && !s.bus.sclQ
      sclQ := true
      sdaQ := v } }

/-- The state after the low half of data bit `v`. -/
def bitBegun (s : State) (v : Bool) : State :=
  { s with bus := { s.bus with sdaOe := s.bus.sdaOe && !s.bus.sclQ, sclQ := false, sdaQ := v } }

/-- The low half of a data bit, whether or not the clock was low before it. -/
theorem clkEdge_clockLow_receiving {s : State} (v : Bool) (hn : s.bus.bitcnt.toNat ≤ 7)
    (hrx : s.bus.dirtx = false) : clkEdge (clockLow v) s = .next (bitBegun s v) := by
  cases hq : s.bus.sclQ with
  | true =>
    rw [clkEdge_clockLow v s hq, fallingClock_of_data (s := sampleLines (clockLow v) s) hn]
    simp [sampleLines, clockLow, bitBegun, hrx, hq]
  | false =>
    rw [clkEdge_clockLow_quiet v s hq]
    simp [sampleLines, clockLow, bitBegun, hq]

/-- The high half of a data bit shifts it in. -/
theorem clockBit_bitBegun {s : State} (v : Bool) (hrx : s.bus.dirtx = false) :
    clockBit v (sampleLines (clockHigh v) (bitBegun s v)) = bitReceived s v := by
  simp [clockBit, sampleLines, clockHigh, bitBegun, bitReceived, hrx]

/-- A data bit is the rising clock edge after its low half. -/
theorem runPorts_bitPorts {s : State} (v : Bool) (hn : s.bus.bitcnt.toNat ≤ 7)
    (hrx : s.bus.dirtx = false) :
    runPorts (bitPorts v) s = risingClock v (sampleLines (clockHigh v) (bitBegun s v)) := by
  rw [bitPorts, runPorts_pair, clkEdge_clockLow_receiving v hn hrx, andThen_next,
    clkEdge_clockHigh v _ rfl]

/-- A data bit before the eighth is shifted in. -/
theorem runPorts_bitPorts_more {s : State} (v : Bool) (hn : s.bus.bitcnt.toNat < 7)
    (hrx : s.bus.dirtx = false) : runPorts (bitPorts v) s = .next (bitReceived s v) := by
  rw [runPorts_bitPorts v hn.le hrx, ← clockBit_bitBegun v hrx]
  exact risingClock_of_data v hn.le fun _ => hn.ne

/-- The eighth data bit hands the byte on. -/
theorem runPorts_bitPorts_last {s : State} (v : Bool) (hn : s.bus.bitcnt.toNat = 7)
    (hrx : s.bus.dirtx = false) :
    runPorts (bitPorts v) s = deliver (.rxByte (bitReceived s v).bus.sreg) (bitReceived s v) := by
  rw [runPorts_bitPorts v hn.le hrx, ← clockBit_bitBegun v hrx]
  exact risingClock_of_lastBit v hn hrx

/-- Data bits before the eighth are shifted in one after another. -/
theorem runPorts_bits (vs : List Bool) {s : State} (hn : s.bus.bitcnt.toNat + vs.length ≤ 7)
    (hrx : s.bus.dirtx = false) :
    runPorts (vs.flatMap bitPorts) s = .next (vs.foldl bitReceived s) := by
  induction vs generalizing s with
  | nil => rfl
  | cons v vs ih =>
    rw [List.length_cons] at hn
    have hnext : (bitReceived s v).bus.bitcnt.toNat = s.bus.bitcnt.toNat + 1 := by
      simp only [bitReceived]
      bv_omega
    rw [List.flatMap_cons, runPorts_append, runPorts_bitPorts_more v (by omega) hrx, andThen_next,
      ih (s := bitReceived s v) (by omega) hrx, List.foldl_cons]

theorem shiftIn_getLsbD (r : Byte) (v : Bool) (i : Nat) (hi : i < 8) :
    (shiftIn r v).getLsbD i = if i = 0 then v else r.getLsbD (i - 1) := by
  have happend : (shiftIn r v).getLsbD i =
      if i < 1 then (BitVec.ofBool v).getLsbD i else (r.extractLsb' 0 7).getLsbD (i - 1) :=
    BitVec.getLsbD_append
  rw [happend]
  cases i with
  | zero => simp
  | succ n =>
    have hn : n < 7 := by omega
    simp [hn]

/-- Eight bits shifted in, most significant first, are the byte, whatever stood there before. -/
theorem foldl_shiftIn (r b : Byte) :
    ([7, 6, 5, 4, 3, 2, 1, 0].map b.getLsbD).foldl shiftIn r = b := by
  apply BitVec.eq_of_getLsbD_eq
  intro i hi
  simp only [List.map_cons, List.map_nil, List.foldl_cons, List.foldl_nil]
  interval_cases i <;> simp [-BitVec.getLsbD_eq_getElem, shiftIn_getLsbD]

/-- The bits of a byte above bit 0, most significant first. -/
def upperBits (b : Byte) : List Bool := ([7, 6, 5, 4, 3, 2, 1] : List Nat).map b.getLsbD

theorem bytePorts_eq (b : Byte) :
    bytePorts b = (upperBits b).flatMap bitPorts ++ bitPorts (b.getLsbD 0) := rfl

/-- The eight bits of a byte clocked in from bit count 0. -/
theorem foldl_bitReceived {s : State} (b : Byte) (h : s.bus.bitcnt = 0) :
    bitReceived ((upperBits b).foldl bitReceived s) (b.getLsbD 0) =
      { s with bus := { s.bus with
        sreg := b, bitcnt := 8, sdaOe := false, sclQ := true, sdaQ := b.getLsbD 0 } } := by
  simpa [upperBits, bitReceived, h] using foldl_shiftIn s.bus.sreg b

/-- The byte that the sixteen edges carry is delivered (`42_serial_protocol.md` R102). -/
theorem runPorts_bytePorts {s : State} (b : Byte) (hn : s.bus.bitcnt = 0) (hrx : s.bus.dirtx = false) :
    runPorts (bytePorts b) s = deliver (.rxByte b)
      { s with bus := { s.bus with
        sreg := b, bitcnt := 8, sdaOe := false, sclQ := true, sdaQ := b.getLsbD 0 } } := by
  have hseven : ((upperBits b).foldl bitReceived s).bus.bitcnt.toNat = 7 := by
    simp [upperBits, bitReceived, hn]
  rw [bytePorts_eq, runPorts_append, runPorts_bits (upperBits b) (by simp [upperBits, hn]) hrx, andThen_next,
    runPorts_bitPorts_last (b.getLsbD 0) hseven hrx, foldl_bitReceived b hn]

/-- The bit layer ready for a byte to be received, the line not yet released. -/
def readyToReceive (s : State) : State :=
  { s with bus := { s.bus with bitcnt := 0, dirtx := false, ackres := .none } }

/-- The falling edge after an acknowledgment clock, outside a read, is the first of a byte frame that begins
at bit count 0 (`42_serial_protocol.md` R103). -/
theorem clkEdge_clockLow_frameEnd {s : State} (l : Bool) (hn : s.bus.bitcnt = 9)
    (hq : s.bus.sclQ = true) (hp : s.ser.pstate ≠ .streamingReadData) :
    clkEdge (clockLow l) s = clkEdge (clockLow l) (readyToReceive s) := by
  rw [clkEdge_clockLow l s hq, clkEdge_clockLow_receiving l (s := readyToReceive s) (Nat.zero_le 7) rfl,
    fallingClock_of_frameEnd (s := sampleLines (clockLow l) s) hn,
    beginByteFrame_of_not_streaming (s := sampleLines (clockLow l) s) hp]
  simp [sampleLines, clockLow, bitBegun, readyToReceive, hq]

/-- Settles O55: a frame from bit count 9 begins as one from bit count 0 does; the other clauses are one
clock edge each. -/
theorem wireByteIsRxByte : Obligations.WireByteIsRxByte := by
  intro b l s
  refine ⟨runPorts_bytePorts b, fun hn hq hp => ?_, fun hn hrx hq => ?_, fun hn hrx hq => ?_,
    fun hn hq hp => ?_⟩
  · have hready : runPorts (bytePorts b) s = runPorts (bytePorts b) (readyToReceive s) :=
      congrArg (andThen · _) (clkEdge_clockLow_frameEnd (b.getLsbD 7) hn hq hp)
    exact hready.trans (runPorts_bytePorts b rfl rfl)
  · rw [clkEdge_clockLow l s hq, fallingClock_of_ackSlot (s := sampleLines (clockLow l) s) hn]
    simp [sampleLines, clockLow, hrx]
  · rw [clkEdge_clockHigh l s hq]
    exact risingClock_of_answered (s := sampleLines (clockHigh l) s) l hn hrx
  · rw [clkEdge_clockLow_frameEnd l hn hq hp,
      clkEdge_clockLow_receiving l (s := readyToReceive s) (Nat.zero_le 7) rfl]
    simp [bitBegun, readyToReceive, hq]

/-! ## A byte sent -/

/-- One clock high and low again for each pair of levels of the data line. -/
def slotPorts (levels : List (Bool × Bool)) : List Ports :=
  levels.flatMap fun l => [clockHigh l.1, clockLow l.2]

theorem sendPorts_eq (first : Bool) (levels : List (Bool × Bool)) :
    sendPorts first levels = clockLow first :: slotPorts levels := by
  induction levels generalizing first with
  | nil => rfl
  | cons l rest ih => rw [sendPorts, ih]; rfl

/-- Slot `n` of the byte that the block sends from `s` has begun in `t`: the line carries its bit, or is
released in the acknowledgment slot (`42_serial_protocol.md` R103). -/
def SlotBegun (s : State) (n : Nat) (t : State) : Prop :=
  t.bus.bitcnt.toNat = n ∧ t.bus.dirtx = true ∧ t.bus.sreg = readData s ∧ t.bus.sclQ = false ∧
  t.bus.sdaOe = (if n = 8 then false else !(readData s).getLsbD (7 - n)) ∧
  t.ser = s.ser ∧ OnlySerial s t

/-- The falling edge after an acknowledgment clock in a read begins slot 0 of the next byte. -/
theorem clkEdge_begins_sentByte {s : State} (l : Bool) (hp : s.ser.pstate = .streamingReadData)
    (hn : s.bus.bitcnt = 9) (hq : s.bus.sclQ = true) :
    ∃ t, clkEdge (clockLow l) s = .next t ∧ SlotBegun s 0 t := by
  rw [clkEdge_clockLow l s hq, fallingClock_of_frameEnd (s := sampleLines (clockLow l) s) hn,
    beginByteFrame_of_streaming (s := sampleLines (clockLow l) s) hp]
  exact ⟨_, rfl, rfl, rfl, rfl, rfl, rfl, rfl, onlySerial_of_writes s _ _⟩

/-- The falling edge of a sent byte frame begins the slot of its bit count. -/
theorem fallingClock_begins_slot {s t : State} {n : Nat} (hn : n ≤ 8) (hcount : t.bus.bitcnt.toNat = n)
    (htx : t.bus.dirtx = true) (hsreg : t.bus.sreg = readData s) (hq : t.bus.sclQ = false)
    (hser : t.ser = s.ser) (honly : OnlySerial s t) : SlotBegun s n (fallingClock t) := by
  by_cases h8 : n = 8
  · have hcount8 : t.bus.bitcnt = 8 := BitVec.eq_of_toNat_eq (hcount.trans h8)
    rw [fallingClock_of_ackSlot hcount8]
    exact ⟨hcount, htx, hsreg, hq, by simp [htx, h8], hser, honly⟩
  · rw [fallingClock_of_data (by omega)]
    exact ⟨hcount, htx, hsreg, hq, by simp [slotBit, htx, hsreg, hcount, h8], hser, honly⟩

/-- The state after one data clock of a sent byte has gone high. -/
def bitSent (t : State) (l : Bool) : State :=
  { t with bus := { t.bus with bitcnt := t.bus.bitcnt + 1, sclQ := true, sdaQ := l } }

/-- A rising data clock of a sent byte only counts (`42_serial_protocol.md` R102). -/
theorem clkEdge_clockHigh_sending {t : State} (l : Bool) (hn : t.bus.bitcnt.toNat ≤ 7)
    (htx : t.bus.dirtx = true) (hq : t.bus.sclQ = false) :
    clkEdge (clockHigh l) t = .next (bitSent t l) := by
  rw [clkEdge_clockHigh l t hq,
    risingClock_of_data (s := sampleLines (clockHigh l) t) l hn (by simp [htx])]
  simp [clockBit, sampleLines, clockHigh, bitSent, htx]

/-- A data clock of a sent byte moves on to the next slot, whatever the other side of the line does. -/
theorem SlotBegun.next_slot {s t : State} {n : Nat} (h : SlotBegun s n t) (hn : n < 8) (l : Bool × Bool) :
    ∃ u, runPorts [clockHigh l.1, clockLow l.2] t = .next u ∧ SlotBegun s (n + 1) u := by
  obtain ⟨hcount, htx, hsreg, hq, _, hser, honly⟩ := h
  have hnext : (bitSent t l.1).bus.bitcnt.toNat = n + 1 := by
    simp only [bitSent]
    bv_omega
  refine ⟨fallingClock (sampleLines (clockLow l.2) (bitSent t l.1)), ?_,
    fallingClock_begins_slot hn hnext htx hsreg rfl hser honly⟩
  rw [runPorts_pair, clkEdge_clockHigh_sending l.1 (by omega) htx hq, andThen_next,
    clkEdge_clockLow l.2 _ rfl]

/-- The data clocks of a sent byte, one after another. -/
theorem SlotBegun.runPorts_slotPorts {s t : State} {n : Nat} (levels : List (Bool × Bool))
    (h : SlotBegun s n t) (hn : n + levels.length ≤ 8) :
    ∃ u, runPorts (slotPorts levels) t = .next u ∧ SlotBegun s (n + levels.length) u := by
  induction levels generalizing n t with
  | nil => exact ⟨t, rfl, h⟩
  | cons l rest ih =>
    rw [List.length_cons] at hn ⊢
    obtain ⟨u, hu, hslot⟩ := h.next_slot (by omega) l
    obtain ⟨v, hv, hend⟩ := ih hslot (by omega)
    refine ⟨v, ?_, by rwa [Nat.add_assoc, Nat.add_comm 1] at hend⟩
    rw [slotPorts, List.flatMap_cons, runPorts_append, hu]
    exact hv

/-- The clock of the acknowledgment slot delivers the host's bit and ends the frame
(`42_serial_protocol.md` R102). -/
theorem SlotBegun.delivers_hostAck {s t : State} (h : SlotBegun s 8 t) (sda : Bool) :
    ∃ u,
      deliver (.hack (hostAckOf sda)) { t with bus := { t.bus with sclQ := true, sdaQ := sda } } =
        .next u ∧
      clkEdge (clockHigh sda) t = .next { u with bus := { u.bus with bitcnt := 9 } } := by
  obtain ⟨hcount, htx, _, hq, _⟩ := h
  have hcount8 : t.bus.bitcnt = 8 := BitVec.eq_of_toNat_eq hcount
  obtain ⟨u, hu, _⟩ := deliver_serial_completes (e := .hack (hostAckOf sda)) ⟨nofun, nofun⟩
    (sampleLines (clockHigh sda) t)
  refine ⟨u, hu, ?_⟩
  rw [clkEdge_clockHigh sda t hq,
    risingClock_of_hostAck (s := sampleLines (clockHigh sda) t) sda hcount8 htx, hu]
  rfl

/-- Settles O56: slot 0 begins at the first falling edge, every further pair of levels moves on by one slot,
and slot 8 is the acknowledgment slot. -/
theorem sentByteOnWires : Obligations.SentByteOnWires := by
  intro first levels s hp hn hq hlen
  obtain ⟨t₀, ht₀, hslot⟩ := clkEdge_begins_sentByte first hp hn hq
  obtain ⟨t, ht, hend⟩ := hslot.runPorts_slotPorts levels (by omega)
  rw [Nat.zero_add] at hend
  have hrun : runPorts (sendPorts first levels) s = .next t := by
    rw [sendPorts_eq, runPorts_cons, ht₀, andThen_next, ht]
  have hack : levels.length = 8 → SlotBegun s 8 t := fun h => h ▸ hend
  obtain ⟨hcount, htx, _, _, hline, hser, honly⟩ := hend
  exact ⟨t, hrun, hline, htx, hcount, hser, honly, fun h8 => (hack h8).delivers_hostAck⟩

end Sys2Proof.Machine
end

section
/-! PROOFS. Transactions on the bus at event level (`42_serial_protocol.md` R105 to R117): select, write,
read. -/

namespace Sys2Proof.Machine

/-! ## Runs of events -/

theorem runEvents_cons (e : Event) (es : List Event) (s : State) :
    runEvents (e :: es) s = andThen (deliver e s) (runEvents es) := rfl

/-- A run that reaches `t` goes on from there. -/
theorem runEvents_append_of_next {es : List Event} {s t : State} (h : runEvents es s = .next t)
    (fs : List Event) : runEvents (es ++ fs) s = runEvents fs t := by
  have happend : runEvents (es ++ fs) s = andThen (runEvents es s) (runEvents fs) := by
    rw [runEvents, List.map_append, runInputs_append]; rfl
  rw [happend, h, andThen_next]

theorem runEvents_singleton (e : Event) (s : State) : runEvents [e] s = deliver e s := by
  rw [runEvents_cons]
  cases deliver e s <;> rfl

theorem OnlySerial.trans {s t u : State} (h : OnlySerial s t) (h' : OnlySerial t u) : OnlySerial s u := by
  obtain ⟨hreg, hir, hcfg, hinputs, hedges⟩ := h
  obtain ⟨hreg', hir', hcfg', hinputs', hedges'⟩ := h'
  exact ⟨hreg'.trans hreg, hir'.trans hir, hcfg'.trans hcfg, hinputs'.trans hinputs,
    hedges'.trans hedges⟩

theorem OnlySerial.cfg_eq {s t : State} (h : OnlySerial s t) : t.cfg = s.cfg := by
  obtain ⟨_, _, hcfg, _⟩ := h
  exact hcfg

/-! ## The parts of a transaction -/

/-- START and the device's address byte. -/
def addressEvents (c : Params) (dir : Bool) : List Event :=
  [.start, .rxByte (addressByte c.deviceAddress dir)]

/-- START, the write-direction address byte and a select byte. -/
def selectEvents (c : Params) (a : Byte) : List Event := addressEvents c false ++ [.rxByte a]

/-- A matching address byte, by its direction (`42_serial_protocol.md` R107). -/
theorem deliver_deviceAddress {s : State} (hp : s.ser.pstate = .awaitingAddress)
    (ha : s.ser.armed = true) (dir : Bool) :
    deliver (.rxByte (addressByte s.cfg.deviceAddress dir)) s =
      exec (if dir then .addrR else .addrW) s := by
  rw [deliver_rxByte_of_armed hp ha, decodeAddr_deviceAddress]

/-- START arms the engine for the address byte, in any state (`42_serial_protocol.md` R105). -/
theorem runEvents_address (dir : Bool) (s : State) :
    runEvents (addressEvents s.cfg dir) s =
      exec (if dir then .addrR else .addrW) (awaitAddress true s) := by
  rw [addressEvents, runEvents_cons, deliver_start, andThen_next, runEvents_singleton]
  exact deliver_deviceAddress (s := awaitAddress true s) rfl rfl dir

/-- With nothing selected the write direction awaits a register select (`42_serial_protocol.md` R111). -/
theorem runEvents_addressWrite {s : State} (hsel : s.ser.sel = s.cfg.sentinel) :
    ∃ t, runEvents (addressEvents s.cfg false) s = .next t ∧
      t.ser = { s.ser with pstate := .awaitingRegisterSelect, armed := false } ∧ OnlySerial s t := by
  refine ⟨acceptWrite (awaitAddress true s), ?_, ?_, onlySerial_of_writes s _ _⟩
  · rw [runEvents_address]
    exact execAddrW_eq (awaitAddress true s)
  · simp [acceptWrite, awaitAddress, hsel]

/-- With a readable register selected the read direction streams it (`42_serial_protocol.md` R110). -/
theorem runEvents_addressRead {s : State} (hsel : s.ser.sel ≠ s.cfg.sentinel)
    (hread : readable s.ser.sel = true) :
    runEvents (addressEvents s.cfg true) s = .next (acceptRead (awaitAddress true s)) := by
  rw [runEvents_address]
  exact execAddrR_of_readable hsel hread

/-- A register is selected from nothing selected (`42_serial_protocol.md` R112). -/
theorem runEvents_select {s : State} {a : Byte} (hsel : s.ser.sel = s.cfg.sentinel)
    (ha : a ∈ whitelist) :
    ∃ t, runEvents (selectEvents s.cfg a) s = .next t ∧
      t.ser = { s.ser with sel := a, pstate := .awaitingWriteData, armed := false } ∧
      OnlySerial s t := by
  obtain ⟨t, ht, hser, honly⟩ := runEvents_addressWrite hsel
  have hp : t.ser.pstate = .awaitingRegisterSelect := by rw [hser]
  refine ⟨selectRegister a t, ?_, ?_, honly.trans (selectRegister_onlySerial a t)⟩
  · rw [selectEvents, runEvents_append_of_next ht, runEvents_singleton, deliver_rxByte_of_select hp,
      exec_decodeSel_of_mem ha]
  · rw [selectRegister_ser, hser]

/-- A data byte is written to the selected register and the transaction ends
(`42_serial_protocol.md` R113, R106). -/
theorem runEvents_write {s : State} (hp : s.ser.pstate = .awaitingWriteData)
    (hw : writable s.ser.sel = true) (d : Byte) :
    runEvents [.rxByte d, .stop] s = .next (awaitAddress false (writeRegister s.ser.sel d s)) := by
  rw [runEvents_cons, deliver_rxByte_of_writeData hp, exec_decodeWData_of_writable hw, andThen_next,
    runEvents_singleton, deliver_stop]

/-! ## A refused select byte -/

/-- Settles O59: the select byte is awaited, decodes to SEL.BAD and is the violation. -/
theorem unmappedSelectIsRefused : Obligations.UnmappedSelectIsRefused := by
  intro s b hsel hb
  obtain ⟨t, ht, hser, honly⟩ := runEvents_addressWrite hsel
  have hp : t.ser.pstate = .awaitingRegisterSelect := by rw [hser]
  have hrun : runEvents (addressEvents s.cfg false ++ [.rxByte b]) s =
      .next (violation .badRegister t) := by
    rw [runEvents_append_of_next ht, runEvents_singleton, deliver_rxByte_of_select hp,
      exec_decodeSel_of_not_mem hb]
  obtain ⟨⟨hsent, hknown, harmed, hbuf, hcursor⟩, _, hkept⟩ := violation_refuses .badRegister t
  refine ⟨_, hrun, ⟨?_, hknown, harmed, ?_, ?_⟩, rfl, honly.trans hkept⟩
  · rw [hsent, honly.cfg_eq]
  · rw [hbuf, hser]
  · rw [hcursor, hser]

/-! ## Streaming -/

/-- The byte sent is the byte of the snapshot at the cursor (`42_serial_protocol.md` R110, R114). -/
theorem readData_of_loaded {s : State} {bytes : List Byte} {buf : Vector Byte 8}
    (hbuf : s.ser.buf = storePrefix bytes buf) (h : s.ser.cursor.toNat < bytes.length) :
    some (readData s) = bytes[s.ser.cursor.toNat]? := by
  have hbyte := storePrefix_getElem bytes buf ⟨s.ser.cursor.toNat, s.ser.cursor.isLt⟩
  rw [dif_pos h, ← hbuf] at hbyte
  rw [List.getElem?_eq_getElem h]
  exact congrArg some hbyte

/-- `n` acknowledged bytes move the cursor on by `n`, modulo the register's width
(`42_serial_protocol.md` R115). -/
theorem runEvents_hacks (n : Nat) {s : State} (hp : s.ser.pstate = .streamingReadData)
    (hcursor : s.ser.cursor.toNat < width s.ser.sel) :
    ∃ t, runEvents (List.replicate n (.hack .ack)) s = .next t ∧
      t.ser = { s.ser with cursor := t.ser.cursor } ∧
      t.ser.cursor.toNat = (s.ser.cursor.toNat + n) % width s.ser.sel := by
  induction n generalizing s with
  | zero => exact ⟨s, rfl, rfl, (Nat.mod_eq_of_lt hcursor).symm⟩
  | succ n ih =>
    obtain ⟨u, hu, hnext, hser, _⟩ := (hackAdvancesCursor s).1 hp
    have hsel : u.ser.sel = s.ser.sel := by rw [hser]
    have hlt : u.ser.cursor.toNat < width u.ser.sel := by
      rw [hnext, hsel]
      exact Nat.mod_lt _ (width_pos _)
    obtain ⟨t, ht, hser', hcursor'⟩ := ih (by rw [hser]; exact hp) hlt
    refine ⟨t, ?_, by rw [hser', hser], ?_⟩
    · have hdeliver : deliver (.hack .ack) s = .next u := hu
      rw [List.replicate_succ, runEvents_cons, hdeliver, andThen_next, ht]
    · rw [hcursor', hnext, hsel, Nat.mod_add_mod, Nat.add_assoc, Nat.add_comm 1]

/-- Settles O58: the address byte takes the snapshot at cursor 0, and the acknowledgments only move the
cursor. -/
theorem streamedReadWraps : Obligations.StreamedReadWraps := by
  intro s n hsel hread hp ha
  have haddr : deliver (.rxByte (addressByte s.cfg.deviceAddress true)) s = .next (acceptRead s) :=
    (deliver_deviceAddress hp ha true).trans (execAddrR_of_readable hsel hread)
  obtain ⟨t, ht, hser, hcursor⟩ := runEvents_hacks n (s := acceptRead s) rfl (width_pos s.ser.sel)
  have hindex : t.ser.cursor.toNat = n % width s.ser.sel := by
    rw [hcursor]
    exact congrArg (· % width s.ser.sel) (Nat.zero_add n)
  have hlt : t.ser.cursor.toNat < (memRead s.cfg s.reg s.ser.sel).length := by
    rw [memRead_length s.cfg s.reg hread, hindex]
    exact Nat.mod_lt n (width_pos s.ser.sel)
  refine ⟨t, ?_, by rw [hser]; rfl, ?_⟩
  · rw [runEvents_cons, haddr, andThen_next, ht]
  · rw [← hindex]
    exact readData_of_loaded (buf := s.ser.buf) (by rw [hser]; rfl) hlt

/-! ## A PWM byte written and read back -/

/-- The register address of channel `k`'s PWM byte (`20_memory.md` R31). -/
def pwmAddress (k : Chan) : Byte := 0x50#8 + k.zeroExtend 8

theorem pwmAddress_mem (k : Chan) : pwmAddress k ∈ whitelist := by revert k; decide

theorem readable_pwmAddress (k : Chan) : readable (pwmAddress k) = true := by revert k; decide

theorem writable_pwmAddress (k : Chan) : writable (pwmAddress k) = true := by revert k; decide

/-- A PWM register reads as its channel's byte (`43_serial_registers.md` R135 to R138). -/
theorem memRead_pwmAddress (c : Params) (r : Registry) (k : Chan) :
    memRead c r (pwmAddress k) = [chanGet r.pwm k] := by
  rcases chan_cases k with rfl | rfl | rfl | rfl <;> rfl

/-- A write to a PWM register replaces its channel's byte (`43_serial_registers.md` R144 to R147). -/
theorem memWrite_pwmAddress (d : Byte) (r : Registry) (k : Chan) :
    memWrite (pwmAddress k) d r = { r with pwm := chanSet r.pwm k d } := by
  rcases chan_cases k with rfl | rfl | rfl | rfl <;> rfl

/-- Select and write in one transaction: the PWM byte is stored and nothing is selected any more. -/
theorem runEvents_writePwm {s : State} (k : Chan) (v : Byte) (hsel : s.ser.sel = s.cfg.sentinel) :
    ∃ t, runEvents (selectEvents s.cfg (pwmAddress k) ++ [.rxByte v, .stop]) s = .next t ∧
      t.ser.sel = t.cfg.sentinel ∧ chanGet t.reg.pwm k = v ∧ t.cfg = s.cfg ∧ t.ir = s.ir := by
  obtain ⟨u, hu, hser, _, hir, hcfg, _⟩ := runEvents_select hsel (pwmAddress_mem k)
  have hp : u.ser.pstate = .awaitingWriteData := by rw [hser]
  have ha : u.ser.sel = pwmAddress k := by rw [hser]
  have hw : writable u.ser.sel = true := ha ▸ writable_pwmAddress k
  refine ⟨awaitAddress false (writeRegister u.ser.sel v u), ?_, rfl, ?_, hcfg, hir⟩
  · rw [runEvents_append_of_next hu, runEvents_write hp hw]
  · show chanGet (memWrite u.ser.sel v u.reg).pwm k = v
    rw [ha, memWrite_pwmAddress]
    exact chanGet_chanSet_same _ k v

/-- Select and read: the block streams the PWM byte. -/
theorem runEvents_readPwm {s : State} (k : Chan) (hvalid : s.cfg.SentinelValid)
    (hsel : s.ser.sel = s.cfg.sentinel) :
    ∃ t, runEvents (selectEvents s.cfg (pwmAddress k) ++ addressEvents s.cfg true) s = .next t ∧
      t.ser.pstate = .streamingReadData ∧ t.bus.ackres = .ack ∧
      readData t = chanGet s.reg.pwm k ∧ t.reg = s.reg ∧ t.ir = s.ir := by
  obtain ⟨u, hu, hser, hreg, hir, hcfg, _⟩ := runEvents_select hsel (pwmAddress_mem k)
  have ha : u.ser.sel = pwmAddress k := by rw [hser]
  have hne : u.ser.sel ≠ u.cfg.sentinel := by
    rw [ha, hcfg]
    exact fun h => hvalid (h ▸ pwmAddress_mem k)
  refine ⟨acceptRead (awaitAddress true u), ?_, rfl, rfl, ?_, hreg, hir⟩
  · rw [runEvents_append_of_next hu, ← hcfg]
    exact runEvents_addressRead hne (ha ▸ readable_pwmAddress k)
  · have hbytes : memRead u.cfg u.reg u.ser.sel = [chanGet s.reg.pwm k] := by
      rw [ha, memRead_pwmAddress, hreg]
    have hbuf : (acceptRead (awaitAddress true u)).ser.buf =
        storePrefix [chanGet s.reg.pwm k] u.ser.buf := congrArg (storePrefix · u.ser.buf) hbytes
    exact Option.some.inj (readData_of_loaded hbuf Nat.zero_lt_one)

/-- Settles O57: the write transaction leaves nothing selected, and the read transaction after it finds the
byte it stored. -/
theorem pwmWriteReadsBack : Obligations.PwmWriteReadsBack := by
  intro s k v hvalid hsel
  obtain ⟨u, hu, husel, hstored, hcfg, hir⟩ := runEvents_writePwm k v hsel
  obtain ⟨t, ht, hp, hack, hsent, hreg, hir'⟩ := runEvents_readPwm k (hcfg ▸ hvalid) husel
  rw [hcfg] at ht
  have hrun : runEvents ((selectEvents s.cfg (pwmAddress k) ++ [.rxByte v, .stop]) ++
      (selectEvents s.cfg (pwmAddress k) ++ addressEvents s.cfg true)) s = .next t := by
    rw [runEvents_append_of_next hu, ht]
  exact ⟨t, hrun, hp, hack, hsent.trans hstored, hreg ▸ hstored, hir'.trans hir⟩

end Sys2Proof.Machine
end

section
/-! PROOFS. The rows of the register multiplexers (`43_serial_registers.md` R130 to R148): what each write
stores, what each read loads, what a serial event leaves alone. -/

namespace Sys2Proof.Machine

/-! ## Noninterference -/

/-- Settles O46: a serial event completes and writes of the registry only `en` and `pwm`. -/
theorem serialEventsLeaveInfrared : Obligations.SerialEventsLeaveInfrared := by
  intro e s he
  obtain ⟨t, ht, hir, hreg, henv⟩ := deliver_serial_completes he s
  exact ⟨t, ht, hir, by rw [hreg], by rw [hreg], by rw [hreg], henv⟩

/-! ## An accepted write -/

/-- What every accepted write leaves besides the registry (`42_serial_protocol.md` R113). -/
theorem writeRegister_accepts (a d : Byte) (s : State) :
    Recovered s (writeRegister a d s) ∧ Answers .ack s (writeRegister a d s) ∧
      (writeRegister a d s).ir = s.ir ∧ EnvKept s (writeRegister a d s) :=
  ⟨⟨rfl, rfl, rfl, rfl, rfl⟩, rfl, rfl, rfl, rfl, rfl⟩

/-! ## The enable registers -/

/-- The frame of a write that reaches `en` alone: only the status byte shows it
(`43_serial_registers.md` R130, R141 to R143). -/
theorem writeRegister_enables {a d : Byte} {s : State} {e : ChanMask}
    (hw : memWrite a d s.reg = { s.reg with en := e }) :
    (writeRegister a d s).reg = { s.reg with en := (writeRegister a d s).reg.en } ∧
      ∀ b : Byte, b ≠ 0x42#8 → RegisterKept b s (writeRegister a d s) := by
  rw [writeRegister_reg, hw]
  refine ⟨rfl, fun b hb => ?_⟩
  rw [RegisterKept, writeRegister_cfg, writeRegister_reg, hw, memRead_en s.cfg s.reg e hb]

/-- Settles O15: the flags are the bits of the mask field. -/
theorem wrStatusReplacesEnables : Obligations.WrStatusReplacesEnables := by
  intro d s
  obtain ⟨hen, hkept⟩ := writeRegister_enables (a := 0x42) (d := d) (s := s) rfl
  exact ⟨writeRegister 0x42 d s, rfl, bitOf_maskField d, hen, hkept, writeRegister_accepts 0x42 d s⟩

theorem bitOf_disableMask_eq_ite (en : ChanMask) (d : Byte) (k : Chan) :
    bitOf (disableMask en d) k = if d.getLsbD k.toNat then false else bitOf en k := by
  rw [bitOf_disableMask]
  cases d.getLsbD k.toNat <;> simp

theorem bitOf_enableMask_eq_ite (en : ChanMask) (d : Byte) (k : Chan) :
    bitOf (enableMask en d) k = if d.getLsbD k.toNat then true else bitOf en k := by
  rw [bitOf_enableMask]
  cases d.getLsbD k.toNat <;> simp

/-- Settles O16: the two masks flag by flag, within the frame of the enable registers. -/
theorem maskWritesChangeNamedFlags : Obligations.MaskWritesChangeNamedFlags := by
  intro q hq d s
  obtain rfl | rfl := List.mem_pair.1 hq
  · obtain ⟨hen, hkept⟩ := writeRegister_enables (a := 0x43) (d := d) (s := s) rfl
    exact ⟨writeRegister 0x43 d s, rfl, bitOf_disableMask_eq_ite s.reg.en d, hen, hkept,
      writeRegister_accepts 0x43 d s⟩
  · obtain ⟨hen, hkept⟩ := writeRegister_enables (a := 0x44) (d := d) (s := s) rfl
    exact ⟨writeRegister 0x44 d s, rfl, bitOf_enableMask_eq_ite s.reg.en d, hen, hkept,
      writeRegister_accepts 0x44 d s⟩

/-! ## The PWM registers -/

/-- A register that is no PWM register does not show the PWM bytes (`43_serial_registers.md` R130). -/
theorem memRead_pwm_of_ne (c : Params) (r : Registry) (v : Vector Byte 4) {b : Byte}
    (hb : ∀ k, b ≠ pwmAddress k) : memRead c { r with pwm := v } b = memRead c r b := by
  have h0 : b ≠ 0x50#8 := hb 0
  have h1 : b ≠ 0x51#8 := hb 1
  have h2 : b ≠ 0x52#8 := hb 2
  have h3 : b ≠ 0x53#8 := hb 3
  simp only [memRead, statusByte, if_neg h0, if_neg h1, if_neg h2, if_neg h3]

/-- A PWM byte is shown by its own register only: another PWM register shows another channel's byte
(`43_serial_registers.md` R130, R135 to R138). -/
theorem memRead_chanSet_of_ne (c : Params) (r : Registry) {k : Chan} (d : Byte) {b : Byte}
    (hb : b ≠ pwmAddress k) :
    memRead c { r with pwm := chanSet r.pwm k d } b = memRead c r b := by
  by_cases hpwm : ∃ j, b = pwmAddress j
  · obtain ⟨j, rfl⟩ := hpwm
    have hjk : j ≠ k := fun h => hb (h ▸ rfl)
    rw [memRead_pwmAddress, memRead_pwmAddress, chanGet_chanSet_ne r.pwm d hjk]
  · exact memRead_pwm_of_ne c r _ (not_exists.1 hpwm)

/-- Settles O17: the four rows are those that a data byte for a PWM register decodes to, and each replaces
its channel's element. -/
theorem wrPwmStoresByte : Obligations.WrPwmStoresByte := by
  intro q hq d s
  have hrows : q ∈ ([0, 1, 2, 3] : List Chan).map
      fun k => (decodeWData (pwmAddress k), k, pwmAddress k) := hq
  obtain ⟨k, _, rfl⟩ := List.mem_map.1 hrows
  have hreg : (writeRegister (pwmAddress k) d s).reg = { s.reg with pwm := chanSet s.reg.pwm k d } :=
    memWrite_pwmAddress d s.reg k
  refine ⟨writeRegister (pwmAddress k) d s, exec_decodeWData_of_writable (writable_pwmAddress k) d s,
    ?_, fun j hj => ?_, ?_, fun b hb => ?_, writeRegister_accepts (pwmAddress k) d s⟩
  · rw [hreg]
    exact chanGet_chanSet_same s.reg.pwm k d
  · rw [hreg]
    exact chanGet_chanSet_ne s.reg.pwm d hj
  · rw [hreg]
  · rw [RegisterKept, writeRegister_cfg, hreg]
    exact memRead_chanSet_of_ne s.cfg s.reg d hb

/-! ## A read row -/

theorem loadBuffer_onlySerial (a : Byte) (s : State) : OnlySerial s (loadBuffer a s) :=
  onlySerial_of_writes s _ _

/-- A register of eight bytes fills the buffer (`43_serial_registers.md` R131 to R133). -/
theorem loadBuffer_ser_of_string {a : Byte} {s : State} {v : Vector Byte 8}
    (h : memRead s.cfg s.reg a = v.toList) : (loadBuffer a s).ser = { s.ser with buf := v } := by
  rw [loadBuffer_ser, h, storePrefix_full]

/-- A register of one byte is loaded into `buf[0]` (`43_serial_registers.md` R134 to R138). -/
theorem loadBuffer_buf_of_byte {a x : Byte} {s : State} (h : memRead s.cfg s.reg a = [x]) :
    (loadBuffer a s).ser.buf[0] = x ∧
      ∀ i : Fin 8, i ≠ 0 → (loadBuffer a s).ser.buf[i] = s.ser.buf[i] := by
  rw [loadBuffer_ser, h]
  exact storePrefix_one x s.ser.buf

/-- Settles O18: the three registers hold the three strings. -/
theorem rdIdentityLoadsString : Obligations.RdIdentityLoadsString := by
  intro q hq s
  simp only [List.mem_cons, List.not_mem_nil, or_false] at hq
  obtain rfl | rfl | rfl := hq
  · exact ⟨loadBuffer 0x00 s, rfl, loadBuffer_ser_of_string rfl, rfl, loadBuffer_onlySerial 0x00 s⟩
  · exact ⟨loadBuffer 0x08 s, rfl, loadBuffer_ser_of_string rfl, rfl, loadBuffer_onlySerial 0x08 s⟩
  · exact ⟨loadBuffer 0x10 s, rfl, loadBuffer_ser_of_string rfl, rfl, loadBuffer_onlySerial 0x10 s⟩

/-- Settles O19: the byte loaded is the status byte, whose fields are those of R56. -/
theorem rdStatusLoadsLayout : Obligations.RdStatusLoadsLayout := by
  intro s
  obtain ⟨hbyte, hrest⟩ := loadBuffer_buf_of_byte (a := 0x42) (s := s) rfl
  obtain ⟨hzero, hwaiting, hcur, hen⟩ := statusByte_fields s.reg
  refine ⟨loadBuffer 0x42 s, rfl, ?_, ?_, ?_, ?_, hrest, rfl, rfl, loadBuffer_onlySerial 0x42 s⟩ <;>
    rw [hbyte]
  · exact hzero
  · exact hwaiting
  · exact hcur
  · exact hen

/-- Settles O20: each of the four rows loads the PWM register of its channel. -/
theorem rdPwmLoadsByte : Obligations.RdPwmLoadsByte := by
  intro q hq s
  have hload : exec q.1 s = .next (loadBuffer (pwmAddress q.2) s) := by
    simp only [List.mem_cons, List.not_mem_nil, or_false] at hq
    obtain rfl | rfl | rfl | rfl := hq <;> rfl
  obtain ⟨hbyte, hrest⟩ := loadBuffer_buf_of_byte (memRead_pwmAddress s.cfg s.reg q.2)
  exact ⟨loadBuffer (pwmAddress q.2) s, hload, hbyte, hrest, rfl, rfl,
    loadBuffer_onlySerial (pwmAddress q.2) s⟩

end Sys2Proof.Machine
end

section
/-! PROOFS. Simultaneity and totality (`60_exceptions.md` R165, R168): the order of the two handlers on one
clk edge, when that order does not matter, and the inputs that complete. -/

namespace Sys2Proof.Machine

/-! ## The order of the two handlers -/

theorem clkEdge_of_reset {p : Ports} (s : State) (hr : p.rstN = false) :
    clkEdge p s = .next (resetState s) := by
  rw [clkEdge, hr]; rfl

theorem clkEdge_of_irFirst {p : Ports} {s : State} (hr : p.rstN = true)
    (ho : s.cfg.simulOrder = .irFirst) : clkEdge p s = andThen (timerEdge p s) (serialEdge p) := by
  rw [clkEdge, if_pos hr, ho]

theorem clkEdge_of_serialFirst {p : Ports} {s : State} (hr : p.rstN = true)
    (ho : s.cfg.simulOrder = .serialFirst) : clkEdge p s = andThen (serialEdge p s) (timerEdge p) := by
  rw [clkEdge, if_pos hr, ho]

/-- Settles O8: the reset branch and the two orders of a clk edge. -/
theorem clkEdgeOrder : Obligations.ClkEdgeOrder := by
  intro p s t u
  refine ⟨rfl, clkEdge_of_reset s, fun hr ho ht hu => ?_, fun hr ho ht hu => ?_⟩
  · rw [clkEdge_of_irFirst hr ho, ht, andThen_next, hu]
  · rw [clkEdge_of_serialFirst hr ho, ht, andThen_next, hu]

/-! ## CMPA and CMPB -/

/-- In a symbol's mark CMPA has a row, the end of that mark (`40_ir_frame_engine.md` R75, R77, R79). -/
theorem decode_cmpA_of_marking {s : State} (hon : s.ir.carrierOn = true) (hm : Marking s.ir) :
    ∃ i, decode s.cfg s.context (.event .cmpA) = .instr i ∧
      exec i s = .next { s with ir := endMark (symbolLength s.cfg s.ir) s.ir } := by
  simp only [decode, decodeEvent, decodeCmpA, State.context, hon, if_true]
  rcases marking_cases hm with h | h | h <;> rw [h]
  · exact ⟨.taStartmark, rfl, by rw [symbolLength, if_neg (by simp [h])]; rfl⟩
  · exact ⟨.taBit, rfl, by rw [symbolLength, if_pos h]; rfl⟩
  · exact ⟨.taStopmark, rfl, by rw [symbolLength, if_neg (by simp [h])]; rfl⟩

theorem deliver_cmpA_of_marking {s : State} (hon : s.ir.carrierOn = true) (hm : Marking s.ir) :
    deliver .cmpA s = .next { s with ir := endMark (symbolLength s.cfg s.ir) s.ir } := by
  obtain ⟨i, hd, hi⟩ := decode_cmpA_of_marking hon hm
  exact (deliver_of_decode_instr hd).trans hi

/-- With the carrier off a delivered CMPA is refused (`40_ir_frame_engine.md` R72, R84; log 6). -/
theorem deliver_cmpA_of_gap {s : State} (hoff : s.ir.carrierOn = false) :
    deliver .cmpA s = .refused .timerEventNotRaised := by
  have hd : decode s.cfg s.context (.event .cmpA) = .rejected .cmpaOutsideMark := by
    simp [decode, decodeEvent, decodeCmpA, State.context, hoff]
  exact deliver_of_decode_rejected hd

/-- With the carrier on a delivered CMPB is refused (`40_ir_frame_engine.md` R72; log 6). -/
theorem deliver_cmpB_of_mark {s : State} (hon : s.ir.carrierOn = true) :
    deliver .cmpB s = .refused .timerEventNotRaised := by
  have hd : decode s.cfg s.context (.event .cmpB) = .rejected .cmpbDuringMark := by
    simp [decode, decodeEvent, decodeCmpB, State.context, hon]
  exact deliver_of_decode_rejected hd

/-! ## The inputs that complete -/

/-- In the timer's invariant an event completes unless it is a timer event that the carrier rules out. -/
theorem deliver_completes {s : State} (hs : TimerInv s) {e : Event}
    (ha : e = .cmpA → s.ir.carrierOn = true) (hb : e = .cmpB → s.ir.carrierOn = false) :
    ∃ t, deliver e s = .next t := by
  by_cases he : SerialEvent e
  · obtain ⟨t, ht, _⟩ := deliver_serial_completes he s
    exact ⟨t, ht⟩
  · rcases not_serialEvent_iff.1 he with rfl | rfl
    · obtain ⟨_, hm, _⟩ := (timerInv_iff_of_mark (ha rfl)).1 hs
      exact ⟨_, deliver_cmpA_of_marking (ha rfl) hm⟩
    · exact deliver_cmpB_completes (hb rfl)

/-- Settles O49: each kind of input completes, and `rejectEvent` refuses the two events without a row. -/
theorem onlyUnraisableTimerEventsStop : Obligations.OnlyUnraisableTimerEventsStop := by
  intro s
  refine ⟨fun hs i ha hb => ?_, deliver_cmpA_of_gap, deliver_cmpB_of_mark⟩
  cases i with
  | clk p => exact clkEdge_completes hs p
  | asyncReset => exact ⟨resetState s, rfl⟩
  | event e => exact deliver_completes hs (fun h => ha (by rw [h])) (fun h => hb (by rw [h]))

/-! ## The bit layer does not see the IR engine -/

/-- An operation that neither reads nor writes the IR engine: it does the same whatever stands there. -/
def IgnoresIr (f : State → Host.Outcome State Fault Refusal) : Prop :=
  ∀ (e : IrEngine) (s : State), f { s with ir := e } = andThen (f s) fun t => .next { t with ir := e }

theorem execAddrR_ignoresIr : IgnoresIr execAddrR := by
  intro e s
  unfold execAddrR
  split_ifs <;> rfl

/-- The address byte (`42_serial_protocol.md` R109 to R111). -/
theorem exec_decodeAddr_ignoresIr (c : Params) (b : Byte) : IgnoresIr (exec (decodeAddr c b)) := by
  unfold decodeAddr
  split_ifs
  · exact execAddrR_ignoresIr
  · intro e s
    show execAddrW _ = andThen (execAddrW s) _
    rw [execAddrW_eq, execAddrW_eq]; rfl
  · exact fun _ _ => rfl

/-- The select byte (`42_serial_protocol.md` R112). -/
theorem exec_decodeSel_ignoresIr (b : Byte) : IgnoresIr (exec (decodeSel b)) := by
  intro e s
  by_cases hb : b ∈ whitelist
  · rw [exec_decodeSel_of_mem hb, exec_decodeSel_of_mem hb]; rfl
  · rw [exec_decodeSel_of_not_mem hb, exec_decodeSel_of_not_mem hb]; rfl

/-- The data byte (`42_serial_protocol.md` R113). -/
theorem exec_decodeWData_ignoresIr (a d : Byte) : IgnoresIr (exec (decodeWData a d)) := by
  intro e s
  cases ha : writable a with
  | true => rw [exec_decodeWData_of_writable ha, exec_decodeWData_of_writable ha]; rfl
  | false => rw [exec_decodeWData_of_not_writable ha, exec_decodeWData_of_not_writable ha]; rfl

/-- The host's acknowledgment bit (`42_serial_protocol.md` R115 to R117). -/
theorem exec_decodeAck_ignoresIr (a : HostAck) : IgnoresIr (exec (decodeAck a)) := by
  intro e s
  cases a with
  | ack =>
    show execHack _ = andThen (execHack s) _
    unfold execHack; split_ifs <;> rfl
  | nack =>
    show execHnack _ = andThen (execHnack s) _
    unfold execHnack; split_ifs <;> rfl

/-- A received byte, in every state of the protocol (`42_serial_protocol.md` R107, R108, R117). -/
theorem deliver_rxByte_ignoresIr (b : Byte) : IgnoresIr (deliver (.rxByte b)) := by
  intro e s
  have ignored (h : (s.ser.pstate = .awaitingAddress ∧ s.ser.armed = false) ∨
      s.ser.pstate = .streamingReadData) : deliver (.rxByte b) { s with ir := e } =
        andThen (deliver (.rxByte b) s) fun t => .next { t with ir := e } := by
    rw [deliver_rxByte_ignored b h, deliver_rxByte_ignored (s := { s with ir := e }) b h]; rfl
  cases hp : s.ser.pstate with
  | awaitingAddress =>
    cases ha : s.ser.armed with
    | true =>
      rw [deliver_rxByte_of_armed hp ha, deliver_rxByte_of_armed (s := { s with ir := e }) hp ha]
      exact exec_decodeAddr_ignoresIr s.cfg b e s
    | false => exact ignored (.inl ⟨hp, ha⟩)
  | awaitingRegisterSelect =>
    rw [deliver_rxByte_of_select hp, deliver_rxByte_of_select (s := { s with ir := e }) hp]
    exact exec_decodeSel_ignoresIr b e s
  | awaitingWriteData =>
    rw [deliver_rxByte_of_writeData hp, deliver_rxByte_of_writeData (s := { s with ir := e }) hp]
    exact exec_decodeWData_ignoresIr s.ser.sel b e s
  | streamingReadData => exact ignored (.inr hp)

/-- The rising clock edge, with the byte or the host's bit it delivers (`42_serial_protocol.md` R102). -/
theorem risingClock_ignoresIr (sda : Bool) : IgnoresIr (risingClock sda) := by
  intro e s
  have hhack : IgnoresIr fun s =>
      andThen (deliver (.hack (hostAckOf sda)) s) fun t => .next (endNinthClock t) := by
    intro e s
    have hack := exec_decodeAck_ignoresIr (hostAckOf sda) e s
    show andThen (exec (decodeAck _) _) _ = andThen (andThen (exec (decodeAck _) s) _) _
    rw [hack]
    cases exec (decodeAck (hostAckOf sda)) s <;> rfl
  unfold risingClock
  split_ifs
  · exact deliver_rxByte_ignoresIr _ e (clockBit sda s)
  · rfl
  · exact hhack e s
  · rfl
  · rfl

/-- The falling clock edge (`42_serial_protocol.md` R103). -/
theorem fallingClock_with_ir (e : IrEngine) (s : State) :
    fallingClock { s with ir := e } = { fallingClock s with ir := e } := by
  unfold fallingClock beginByteFrame
  split_ifs <;> rfl

/-- The bit layer's part of a clk edge neither reads nor writes the IR engine. -/
theorem serialEdge_ignoresIr (p : Ports) : IgnoresIr (serialEdge p) := by
  intro e s
  simp only [serialEdge]
  cases lineChange s.bus p with
  | startCondition => rfl
  | stopCondition => rfl
  | risingEdge => exact risingClock_ignoresIr p.sdaIn e (sampleLines p s)
  | fallingEdge => exact congrArg _ (fallingClock_with_ir e (sampleLines p s))
  | quiet => rfl

/-! ## Within a slot the timer sees only the IR engine -/

/-- From every state with the configuration and the IR engine of `s` the operation leaves the IR engine
`e`, and writes nothing else. -/
def WritesIr (f : State → Host.Outcome State Fault Refusal) (s : State) (e : IrEngine) : Prop :=
  ∀ u, SameTimer s u → f u = .next { u with ir := e }

/-- An engine computed from the configuration and the IR engine is the same in all those states. -/
theorem writesIr_of_engine {f : State → Host.Outcome State Fault Refusal} {s : State}
    (g : Params → IrEngine → IrEngine)
    (h : ∀ u, SameTimer s u → f u = .next { u with ir := g u.cfg u.ir }) :
    WritesIr f s (g s.cfg s.ir) := by
  intro u hu
  rw [h u hu]
  obtain ⟨hcfg, hir⟩ := hu
  rw [hcfg, hir]

/-- What a CMPB that runs no scheduler step makes of the engine: a frame, its first bit, its next bit or
its stop mark begins (`40_ir_frame_engine.md` R74, R76, R78). -/
def beginSymbol (c : Params) (e : IrEngine) : IrEngine :=
  match e.tstate with
  | .starting => beginFrame c e
  | .sendingStartMark => beginMark c { latchBit e with bitpos := 15, tstate := .sendingBit }
  | .sendingBit =>
    if 0 < e.bitpos then beginMark c { latchBit e with bitpos := e.bitpos - 1 }
    else beginMark c { e with tstate := .sendingStopMark }
  | .stopped => e
  | .sendingStopMark => e

/-- A CMPB that runs no scheduler step writes the IR engine alone. -/
theorem deliver_cmpB_beginSymbol {s : State} (hoff : s.ir.carrierOn = false)
    (hslot : s.ir.tstate ≠ .stopped ∧ s.ir.tstate ≠ .sendingStopMark) :
    deliver .cmpB s = .next { s with ir := beginSymbol s.cfg s.ir } := by
  obtain ⟨hstopped, hstop⟩ := hslot
  obtain ⟨t, ht⟩ := deliver_cmpB_completes hoff
  rw [ht]
  obtain ⟨_, ⟨h, _⟩ | ⟨h, rfl⟩ | ⟨h, rfl⟩ | ⟨h, hpos, rfl⟩ | ⟨h, hpos, rfl⟩ | ⟨h, _⟩⟩ :=
    deliver_cmpB_cases ht
  · exact absurd h hstopped
  · simp only [beginSymbol, h]
  · simp only [beginSymbol, h]
  · simp only [beginSymbol, h, if_pos hpos]
  · simp only [beginSymbol, h, if_neg hpos]
  · exact absurd h hstop

/-- A compare in a symbol's mark is the delivered CMPA. -/
theorem compareA_of_marking {s : State} (hon : s.ir.carrierOn = true) (hm : Marking s.ir) :
    compareA s = .next { s with ir := endMark (symbolLength s.cfg s.ir) s.ir } := by
  obtain ⟨i, hd, hi⟩ := decode_cmpA_of_marking hon hm
  exact (compareA_of_decode s.ir.tcnt hd).trans hi

/-- A compare in Stopped or Starting is the model's one fault (`40_ir_frame_engine.md` R84; log 18). -/
theorem compareA_of_not_marking {s : State} (hm : ¬ Marking s.ir) :
    compareA s = .fault .cmpaWithoutHandler := by
  have hd : decodeCmpA s.context = .rejected .cmpaOutsideMark :=
    decodeCmpA_of_not_sending (not_marking_iff.1 hm)
  rw [compareA, hd]

/-- A timer edge that runs no scheduler step writes the IR engine alone, or stops with the fault, and the
configuration and the IR engine decide which (`40_ir_frame_engine.md` R72). -/
theorem timerEdge_writesIr {p : Ports} {s : State}
    (hslot : p.tick = true → s.ir.carrierOn = false → s.ir.tcnt + 1 = s.ir.cmpb →
      s.ir.tstate ≠ .stopped ∧ s.ir.tstate ≠ .sendingStopMark) :
    (∃ e, WritesIr (timerEdge p) s e) ∨
      ∀ u, SameTimer s u → timerEdge p u = .fault .cmpaWithoutHandler := by
  cases hp : p.tick with
  | false => exact .inl ⟨_, writesIr_of_engine (fun _ e => e) fun u _ => timerEdge_of_not_tick u hp⟩
  | true =>
    by_cases ha : s.ir.carrierOn = true ∧ s.ir.tcnt + 1 = s.ir.cmpa
    · have hcompare : ∀ u, SameTimer s u → timerEdge p u = compareA (setTcnt (u.ir.tcnt + 1) u) := by
        intro u ⟨_, hir⟩
        rw [← hir] at ha
        exact timerEdge_of_cmpA hp ha.1 ha.2
      by_cases hm : Marking s.ir
      · refine .inl ⟨_, writesIr_of_engine
          (fun c e => endMark (symbolLength c e) { e with tcnt := e.tcnt + 1 }) fun u hu => ?_⟩
        rw [hcompare u hu]
        obtain ⟨_, hir⟩ := hu
        rw [← hir] at ha hm
        exact compareA_of_marking (s := setTcnt _ u) ha.1 hm
      · refine .inr fun u hu => ?_
        rw [hcompare u hu]
        obtain ⟨_, hir⟩ := hu
        rw [← hir] at hm
        exact compareA_of_not_marking (s := setTcnt _ u) hm
    · by_cases hb : s.ir.carrierOn = false ∧ s.ir.tcnt + 1 = s.ir.cmpb
      · refine .inl ⟨_, writesIr_of_engine beginSymbol fun u ⟨_, hir⟩ => ?_⟩
        have hst := hslot hp hb.1 hb.2
        rw [← hir] at hb hst
        rw [timerEdge_of_cmpB hp hb.1 hb.2]
        exact deliver_cmpB_beginSymbol hb.1 hst
      · refine .inl ⟨_, writesIr_of_engine (fun _ e => { e with tcnt := e.tcnt + 1 })
          fun u ⟨_, hir⟩ => ?_⟩
        rw [← hir] at ha hb
        exact timerEdge_of_no_match hp (fun x y => ha ⟨x, y⟩) (fun x y => hb ⟨x, y⟩)

/-! ## The two handlers commute -/

/-- The operations on disjoint parts of the state commute: one writes the IR engine as the configuration
and the IR engine decide, the other ignores it and keeps both. -/
theorem andThen_comm_of_writesIr {f g : State → Host.Outcome State Fault Refusal} {s t : State}
    {e : IrEngine} (hf : WritesIr f s e) (hg : IgnoresIr g) (ht : g s = .next t) (hst : SameTimer s t) :
    andThen (f s) g = andThen (g s) f := by
  calc andThen (f s) g = g { s with ir := e } := by rw [hf s ⟨rfl, rfl⟩, andThen_next]
    _ = .next { t with ir := e } := by rw [hg e s, ht, andThen_next]
    _ = f t := (hf t hst).symm
    _ = andThen (g s) f := by rw [ht, andThen_next]

/-- Settles O48: the timer's part writes the IR engine, which the bit layer ignores, or stops with the same
fault before and after the bit layer. -/
theorem simultaneousHandlersCommute : Obligations.SimultaneousHandlersCommute := by
  intro p s hslot
  obtain ⟨t, ht⟩ := serialEdge_completes p s
  have hst : SameTimer s t := serialEdge_sameTimer ht
  obtain ⟨e, he⟩ | hfault := timerEdge_writesIr hslot
  · exact andThen_comm_of_writesIr he (serialEdge_ignoresIr p) ht hst
  · rw [hfault s ⟨rfl, rfl⟩, ht, andThen_fault, andThen_next, hfault t hst]

end Sys2Proof.Machine
end
